-- ==== Sys2Proof/Word.lean ====
section
/-! DEFINITION. The words of the RF core: bytes, 32-bit words and 16-byte frames (10_state.md, 30_encoding.md R55). -/

namespace Sys2Proof

/-- `u8` of rule R13. -/
abbrev Byte := BitVec 8

/-- `u32` of rule R13. -/
abbrev U32 := BitVec 32

/-- A frame: exactly `FRAME_SIZE = 16` bytes (R7, R55); also the type of `tx_buf` and `rx_buf` (R24, R25). -/
abbrev Frame := Vector Byte 16

/-- `FRAME_SIZE` (R7). -/
def frameSize : Nat := 16

end Sys2Proof
end

