-- ==== Sys2Proof/Syntax.lean ====
section
/-! DEFINITION. The instructions of the RF core: one constructor for each of the 31 rows of spec/opcode_table.json
(30_encoding.md R54), with the operand types they carry. -/

namespace Sys2Proof

/-- The record a successful handshake yields (R22): a record type, not a register. -/
structure PairingRecord where
  /-- `network_id : u32`. -/
  networkId : U32
  /-- `main_type : u8`. -/
  mainType : Byte
  /-- `main_id : u8`. -/
  mainId : Byte
  /-- `own_id : u8`. -/
  ownId : Byte
  deriving DecidableEq, Repr, Inhabited

/-- The six strobes of R75; their numbers are parameters (R39). -/
inductive Strobe where
  /-- `S_RES`: chip reset. -/
  | res
  /-- `S_IDLE`. -/
  | idle
  /-- `S_RX`. -/
  | rx
  /-- `S_TX`. -/
  | tx
  /-- `S_FTX`: flush the transmit FIFO. -/
  | ftx
  /-- `S_FRX`: flush the receive FIFO. -/
  | frx
  deriving DecidableEq, Repr, Inhabited

/-- One item of a chip-select pattern (R80): a level of the chip-select line, or a delay in microseconds. -/
inductive CsItem where
  | level (high : Bool)
  | wait (us : U32)
  deriving DecidableEq, Repr, Inhabited

/-- The encodings a word handed to the block can be written in (R54). The F16 rows overlap (`ANY_RESPONSE` matches any
16 bytes), so a frame says whether it is one the block sends, one received while a discovery response is awaited, or
one received in another phase (log entries 1 and 19). -/
inductive Format where
  /-- Host command bytes (R61). -/
  | hc
  /-- A driver micro-operation number with its operands (R66). -/
  | mu
  /-- A bus transaction: its kind number with its operands (R65). -/
  | bt
  /-- A frame the block sends (R94–R97). -/
  | frameSent
  /-- A frame received in `PairingDiscover` (R98). -/
  | frameDiscover
  /-- A frame received in any other phase (R99). -/
  | frameResponse
  deriving DecidableEq, Repr, Inhabited

/-- Why a word is no instruction: the decoder's rejections, by name. -/
inductive DecodeError where
  /-- No byte at all. -/
  | noBytes
  /-- A host command with fewer bytes than its opcode fixes (R61, R70). -/
  | truncated
  /-- A word that is longer or shorter than its number or kind fixes (R70). -/
  | badLength
  /-- No micro-operation has this number (R66). -/
  | unknownMicroOp
  /-- No bus transaction kind has this number (R65). -/
  | unknownBusKind
  /-- No strobe has this number (R39, R75). -/
  | unknownStrobe
  /-- The bytes are no chip-select pattern (R80; the byte form is the model's, log entry 18). -/
  | badPattern
  /-- A frame the block never sends (R100). -/
  | notASentFrame
  /-- The fields are those of no well-formed instruction. -/
  | illFormed
  deriving DecidableEq, Repr, Inhabited

/-- One constructor for each row of the opcode table, in the table's order. -/
inductive Instr where
  -- HC: host commands (R61)
  | init
  | startPairing
  | startSetSpeed (pr : PairingRecord) (speed timer : Byte)
  | process
  | isOperationComplete
  | lastOperationSuccessful
  | getPairingResult
  | resetOperationState
  | reservedHc (opcode : Byte)
  -- MU: driver micro-operations (R66)
  | initializeRadio
  | setModeIdle
  | setModeReceive
  | setModeTransmit
  | setTxAddress (nid : U32)
  | setRxAddress (nid : U32)
  | writeTxPayload (frame : Frame)
  | readRxPayload
  -- BT: bus transactions (R65)
  | strobe (st : Strobe)
  | writeReg (a v : Byte)
  | burstWrite (a : Byte) (bytes : List Byte)
  | readStatus (a : Byte)
  | burstRead (a : Byte) (n : Nat)
  | csPulse (pattern : List CsItem)
  | delay (us : U32)
  -- F16: frames (R94–R99)
  | discovery (ownId : Byte)
  | joinRequest (pr : PairingRecord)
  | ack (mainType mainId ownId : Byte)
  | setSpeed (mainType mainId ownId speed : Byte)
  | setTimer (mainType mainId ownId speed timer : Byte)
  | joinOpen (frame : Frame)
  | anyResponse (frame : Frame)
  deriving DecidableEq, Repr, Inhabited

/-- The eight host commands and the reserved opcodes: all the host can issue (R4, R52, R66). -/
def Instr.isHostCommand : Instr → Bool
  | .init | .startPairing | .startSetSpeed _ _ _ | .process | .isOperationComplete | .lastOperationSuccessful
  | .getPairingResult | .resetOperationState | .reservedHc _ => true
  | .initializeRadio | .setModeIdle | .setModeReceive | .setModeTransmit | .setTxAddress _ | .setRxAddress _
  | .writeTxPayload _ | .readRxPayload => false
  | .strobe _ | .writeReg _ _ | .burstWrite _ _ | .readStatus _ | .burstRead _ _ | .csPulse _ | .delay _ => false
  | .discovery _ | .joinRequest _ | .ack _ _ _ | .setSpeed _ _ _ _ | .setTimer _ _ _ _ _ | .joinOpen _
  | .anyResponse _ => false

end Sys2Proof
end

