-- ==== Sys2Proof/Config.lean ====
section
/-! DEFINITION. What is fixed for a run (the parameters of 00_scope.md R8) and the free values: what no rule fixes. -/

namespace Sys2Proof

/-- The parameters of rule R8, as plain data: "each is a named parameter the model takes as an argument". They stand in
`State` so that a step can read them, and no step writes them (log entry 2). -/
structure Params where
  /-- `T_CMD`, the standard per-attempt timeout in milliseconds. -/
  tCmd : U32
  /-- `N_CMD`, the standard retry budget. -/
  nCmd : Byte
  /-- `TTL`. -/
  ttl : Byte
  /-- `REMOTE_TYPE`. -/
  remoteType : Byte
  /-- `DISC_TYPE_TAG`. -/
  discTypeTag : Byte
  /-- `DISC_ADDR_TYPE`. -/
  discAddrType : Byte
  /-- `DISC_ADDR_ID`. -/
  discAddrId : Byte
  /-- `CODE_JOIN_ACK_REQ`. -/
  codeJoinAckReq : Byte
  /-- `CODE_JOIN_OPEN`. -/
  codeJoinOpen : Byte
  /-- `CODE_JOIN_REQUEST`. -/
  codeJoinRequest : Byte
  /-- `CODE_ACK`. -/
  codeAck : Byte
  /-- `CODE_SET_SPEED`. -/
  codeSetSpeed : Byte
  /-- `CODE_SET_TIMER`. -/
  codeSetTimer : Byte
  /-- `LINK_NETWORK_ID`. -/
  linkNetworkId : U32
  /-- `DISC_PAYLOAD`, 4 bytes. -/
  discPayload : Vector Byte 4
  /-- `SETTLE_US`, the settle delay in microseconds. -/
  settleUs : U32
  /-- `RESET_SEQUENCE`, the chip-select pattern. -/
  resetSequence : List CsItem
  /-- `CONFIG_TABLE`, the configuration register values. -/
  configTable : List Byte
  /-- `CFG_BASE`, the first register of the configuration burst. -/
  cfgBase : Byte
  /-- `REG_ADDR`. -/
  regAddr : Byte
  /-- `REG_PKTLEN`. -/
  regPktlen : Byte
  /-- `REG_TXFIFO`. -/
  regTxfifo : Byte
  /-- `REG_RXFIFO`. -/
  regRxfifo : Byte
  /-- `REG_RXBYTES`. -/
  regRxbytes : Byte
  /-- `S_RES`. -/
  sRes : Byte
  /-- `S_IDLE`. -/
  sIdle : Byte
  /-- `S_RX`. -/
  sRx : Byte
  /-- `S_TX`. -/
  sTx : Byte
  /-- `S_FTX`. -/
  sFtx : Byte
  /-- `S_FRX`. -/
  sFrx : Byte
  /-- `RXCOUNT`, a function of a byte, written out as its 256 values in order (log entry 14). -/
  rxCountTable : List Nat
  /-- `TXFIFO_CAP`. -/
  txfifoCap : Nat
  /-- `RXFIFO_CAP`. -/
  rxfifoCap : Nat
  /-- `P_RX_GATE`. -/
  rxGate : Bool
  /-- `P_IDLE_ON_RESPONSE_COMPLETE`. -/
  idleOnResponseComplete : Bool
  deriving DecidableEq, Repr, Inhabited

/-- The number a strobe is sent with (R8, R39). -/
def Params.strobeNum (p : Params) : Strobe → Byte
  | .res => p.sRes
  | .idle => p.sIdle
  | .rx => p.sRx
  | .tx => p.sTx
  | .ftx => p.sFtx
  | .frx => p.sFrx

/-- `RXCOUNT(s)` (R8, R41). -/
def Params.rxCount (p : Params) (s : Byte) : Nat := p.rxCountTable.getD s.toNat 0

/-- The constraints on the parameters: `N_CMD ≥ 1` (R130), both FIFO sizes at least `FRAME_SIZE` (R8), strobe numbers
pairwise distinct (R39). DEDUCED (log entry 15): the address filter and the packet length are two registers, the
configuration burst does not start at the TX FIFO, and some status byte shows every count the RX FIFO can hold. -/
def Params.wf (p : Params) : Bool :=
  decide (1 ≤ p.nCmd.toNat) && decide (frameSize ≤ p.txfifoCap) && decide (frameSize ≤ p.rxfifoCap) &&
  decide [p.sRes, p.sIdle, p.sRx, p.sTx, p.sFtx, p.sFrx].Nodup &&
  decide (p.regAddr ≠ p.regPktlen) && decide (p.cfgBase ≠ p.regTxfifo) &&
  decide (p.rxCountTable.length = 256) && (List.range (p.rxfifoCap + 1)).all fun n => p.rxCountTable.contains n

/-- The five codes of the frames the block sends are pairwise distinct. No rule asks it (91_not_in_source.md N1): it is
a premise of the statements that read a sent frame back. -/
def Params.sentCodesDistinct (p : Params) : Bool :=
  decide [p.codeJoinAckReq, p.codeJoinRequest, p.codeAck, p.codeSetSpeed, p.codeSetTimer].Nodup

/-- The test configuration TC (95_test_vectors.md section 0) with the register defaults of 93_implementation_defined.md
G2, G4 and G5. Used by the tests only; PRESUMED, not facts of the hardware. TC gives no settle delay, reset pattern and
configuration table: those three are arbitrary here (log entry 2). -/
def Params.tc : Params where
  tCmd := 1000
  nCmd := 3
  ttl := 0xFA
  remoteType := 0x03
  discTypeTag := 0x03
  discAddrType := 0x01
  discAddrId := 0x00
  codeJoinAckReq := 0x0C
  codeJoinOpen := 0x06
  codeJoinRequest := 0x04
  codeAck := 0x0B
  codeSetSpeed := 0x02
  codeSetTimer := 0x03
  linkNetworkId := 0xA55A5AA5
  discPayload := #v[0xA5, 0x5A, 0x5A, 0xA5]
  settleUs := 50
  resetSequence := [.level false, .wait 40, .level true]
  configTable := [0, 0, 0, 0, 0, 0, 0x10]
  cfgBase := 0x00
  regAddr := 0x09
  regPktlen := 0x06
  regTxfifo := 0x3F
  regRxfifo := 0x3F
  regRxbytes := 0x3B
  sRes := 0x30
  sIdle := 0x36
  sRx := 0x34
  sTx := 0x35
  sFtx := 0x3B
  sFrx := 0x3A
  rxCountTable := (List.range 256).map (· % 128)
  txfifoCap := 64
  rxfifoCap := 64
  rxGate := false
  idleOnResponseComplete := true

/-- One step of the radio agent (R88). -/
inductive RadioAct where
  /-- `air_tx`: the TX FIFO goes out; the mode draw gives RX when `toRx`, else IDLE. -/
  | airTx (toRx : Bool)
  /-- `air_rx(bytes)`: bytes arrive. -/
  | airRx (bytes : List Byte)
  /-- `rx_off`: the chip leaves RX by itself. -/
  | rxOff
  deriving DecidableEq, Repr, Inhabited

/-- The values the chip registers take at `S_RES`: "unspecified (any value)" (R89). -/
structure ChipRegs where
  addr : Byte
  pktlen : Byte
  /-- Register numbers with their values, in any order; a register not listed takes 0. The numbers have no bound, so
  those past 255 that only a burst names (log entry 16) take any value too (log entry 11). -/
  cfg : List (Nat × Byte)
  deriving DecidableEq, Repr, Inhabited

/-- The implementation's parameters: nothing is known of them but what `Params.wf` says (log entry 2). -/
opaque Config.rawParams : Params

/-- The parameters after reset: `Config.rawParams` where they meet the constraints of R8, R39 and R130. -/
def Config.params : Params := if Config.rawParams.wf then Config.rawParams else Params.tc

/-- `HDR(kind, a)`, the header byte of a bus transaction of this kind number (R45, R65): no state depends on it. -/
opaque Config.hdr : Nat → Byte → Byte

/-- `SPI_MODE` (R45): no state depends on it. -/
opaque Config.spiMode : Nat

/-- Free values (log entry 3): what the `k`-th draw gives when nothing in `State.draws` says otherwise. `Now()` (R147). -/
opaque Config.freeClock : Nat → U32

/-- `DrawOwnId()` (R105): `k : Fin 254` stands for the id `k + 1`, so every id in [1, 254] is possible and no other. -/
opaque Config.freeOwnId : Nat → Fin 254

/-- `init_ok` (R81). -/
opaque Config.freeInitOk : Nat → Bool

/-- `pending_tx_resolve` (R89): true is "sent first", false is "cut off". -/
opaque Config.freeTxSent : Nat → Bool

/-- The level of `line_ready` (R87). -/
opaque Config.freeReady : Nat → Bool

/-- The status byte (R78), before it is bound to show the RX FIFO's count. -/
opaque Config.freeStatus : Nat → Byte

/-- The chip registers after `S_RES` (R89). -/
opaque Config.freeChipRegs : Nat → ChipRegs

/-- The content of `rx_buf` after a poll that returned false (R25, U2). -/
opaque Config.freeRxBuf : Nat → Frame

/-- The steps the radio agent takes before one bus transaction, or while the block waits for the host (R12, R88). -/
opaque Config.freeRadioActs : Nat → List RadioAct

end Sys2Proof
end

