-- ==== Sys2Proof/WellFormed.lean ====
section
/-! DEFINITION. Which instructions are well formed: the operand ranges of the encodings (30_encoding.md R61–R68,
41_frame_codec.md R94–R98). -/

namespace Sys2Proof

/-- The opcodes that name a host command (R61). -/
def isHcOpcode (b : Byte) : Bool := decide (0x01 ≤ b.toNat) && decide (b.toNat ≤ 0x08)

/-- Byte 5, the frame-type code (R55). -/
def Frame.code (f : Frame) : Byte := f[5]

/-- The operand checks. `reservedHc`: an opcode outside 0x01–0x08 (R67). `burstRead`: a count that fits the byte the
model writes it in (log entry 18). `discovery`: an own id in [1, 254] (R94). `setTimer`: timer > 0 (R97). `joinOpen`:
byte 5 is `CODE_JOIN_OPEN` (R98). Every other operand may hold any value (R68). -/
def Instr.wellFormed (p : Params) : Instr → Bool
  | .reservedHc op => !isHcOpcode op
  | .burstRead _ n => decide (n < 256)
  | .discovery ownId => decide (1 ≤ ownId.toNat) && decide (ownId.toNat ≤ 254)
  | .setTimer _ _ _ _ timer => decide (timer ≠ 0)
  | .joinOpen f => decide (f.code = p.codeJoinOpen)
  | .init | .startPairing | .startSetSpeed _ _ _ | .process | .isOperationComplete | .lastOperationSuccessful
  | .getPairingResult | .resetOperationState => true
  | .initializeRadio | .setModeIdle | .setModeReceive | .setModeTransmit | .setTxAddress _ | .setRxAddress _
  | .writeTxPayload _ | .readRxPayload => true
  | .strobe _ | .writeReg _ _ | .burstWrite _ _ | .readStatus _ | .csPulse _ | .delay _ => true
  | .joinRequest _ | .ack _ _ _ | .setSpeed _ _ _ _ | .anyResponse _ => true

end Sys2Proof
end

