-- ==== Sys2Proof/Machine/Operands.lean ====
section
/-! DEFINITION. Operand forms: byte order, the pairing-record format PR, frames as byte lists (00_scope.md R13,
30_encoding.md R60–R64, 20_memory.md R43, R44). -/

namespace Sys2Proof.Machine

/-- `le32` (R13, R43). -/
def le32 (b0 b1 b2 b3 : Byte) : U32 := b3 ++ b2 ++ b1 ++ b0

/-- Byte `k` of a 32-bit word, `v[8k+7 : 8k]` (R13). -/
def byteOf (v : U32) (k : Nat) : Byte := v.extractLsb' (8 * k) 8

/-- `bytes_le32` (R13, R60). -/
def bytesLe32 (v : U32) : List Byte := [byteOf v 0, byteOf v 1, byteOf v 2, byteOf v 3]

/-- `v[7:0]`, what the address filter takes of a network id (R60, R85). -/
def lowByte (v : U32) : Byte := byteOf v 0

/-- The first 16 bytes of a list as a frame (R42, R44: byte `i` stays byte `i`); a missing byte is 0. -/
def frameOfBytes (l : List Byte) : Frame :=
  #v[l.getD 0 0, l.getD 1 0, l.getD 2 0, l.getD 3 0, l.getD 4 0, l.getD 5 0, l.getD 6 0, l.getD 7 0,
     l.getD 8 0, l.getD 9 0, l.getD 10 0, l.getD 11 0, l.getD 12 0, l.getD 13 0, l.getD 14 0, l.getD 15 0]

/-- A pairing record in the PR interchange format, 7 bytes (R64). -/
def prBytes (r : PairingRecord) : List Byte := bytesLe32 r.networkId ++ [r.mainType, r.mainId, r.ownId]

/-- A pairing record from its 7 PR bytes (R62, R64). -/
def recordOf (b0 b1 b2 b3 mainType mainId ownId : Byte) : PairingRecord :=
  { networkId := le32 b0 b1 b2 b3, mainType := mainType, mainId := mainId, ownId := ownId }

/-- The own id a draw stands for: `k : Fin 254` is the id `k + 1` in [1, 254] (R105). -/
def ownIdOf (k : Fin 254) : Byte := BitVec.ofNat 8 (k.val + 1)

/-- The response byte of a yes-or-no accessor: 1 or 0 (R124, R125). -/
def boolByte (b : Bool) : Byte := if b then 1 else 0

/-- The response of `GET_PAIRING_RESULT`: one byte `present`, and the record in PR format when it is 1 (R63). -/
def resultBytes : Option PairingRecord → List Byte
  | none => [0]
  | some r => 1 :: prBytes r

end Sys2Proof.Machine
end

