-- ==== Sys2Proof/Machine/Frames.lean ====
section
/-! DEFINITION. The frame encoder and decoder, which read the parameters only (41_frame_codec.md R93–R99). -/

namespace Sys2Proof.Machine

/-- `frame(at, ai, ot, oi, code, params)` (R93): addressee at bytes 0–1, originator at 2–3, TTL, code, the parameter
count, the parameters from byte 7, and zeros after them. -/
def buildFrame (p : Params) (aType aId oType oId code : Byte) (params : List Byte) : Frame :=
  frameOfBytes ([aType, aId, oType, oId, p.ttl, code, BitVec.ofNat 8 params.length] ++ params)

/-- `build_discovery(own_id)` (R94). -/
def buildDiscovery (p : Params) (ownId : Byte) : Frame :=
  buildFrame p p.discAddrType p.discAddrId p.discTypeTag ownId p.codeJoinAckReq p.discPayload.toList

/-- `build_join_request(rec)` (R95). -/
def buildJoinRequest (p : Params) (r : PairingRecord) : Frame :=
  buildFrame p r.mainType r.mainId p.remoteType r.ownId p.codeJoinRequest (bytesLe32 r.networkId)

/-- `build_ack(rec)` (R96): of the record only the three address bytes appear in the frame. -/
def buildAck (p : Params) (mainType mainId ownId : Byte) : Frame :=
  buildFrame p mainType mainId p.remoteType ownId p.codeAck []

/-- The set-speed frame, `build_command` with timer = 0 (R97). -/
def buildSetSpeed (p : Params) (mainType mainId ownId speed : Byte) : Frame :=
  buildFrame p mainType mainId p.remoteType ownId p.codeSetSpeed [speed]

/-- The set-timer frame, `build_command` with timer > 0 (R97). -/
def buildSetTimer (p : Params) (mainType mainId ownId speed timer : Byte) : Frame :=
  buildFrame p mainType mainId p.remoteType ownId p.codeSetTimer [speed, timer]

/-- `build_command(rec, speed, timer)` (R97); `rec.network_id` does not appear in the frame. -/
def buildCommand (p : Params) (r : PairingRecord) (speed timer : Byte) : Frame :=
  if timer.toNat > 0 then buildSetTimer p r.mainType r.mainId r.ownId speed timer
  else buildSetSpeed p r.mainType r.mainId r.ownId speed

/-- `parse_discovery_response(rx, own_id)` (R98): none is Mismatch, a record is Match. Bytes 0, 1, 4, 6 and 11–15 are
not read (R69). -/
def parseDiscoveryResponse (p : Params) (rx : Frame) (ownId : Byte) : Option PairingRecord :=
  if rx[5] ≠ p.codeJoinOpen then none
  else some { networkId := le32 rx[7] rx[8] rx[9] rx[10], mainType := rx[2], mainId := rx[3], ownId := ownId }

end Sys2Proof.Machine
end

