-- ==== Sys2Proof/Decode.lean ====
section
/-! DEFINITION. The decoder, total on any bytes and rejecting by name, and after it the encoder (30_encoding.md
R54–R70). The byte forms of MU and BT operands are the model's (log entry 18): the spec numbers the operations only. -/

namespace Sys2Proof

open Machine

/-- A host command (R61, R62): the opcode fixes the length; what follows it stays for the next command. Opcodes 0x00
and 0x09–0xFF are the reserved row (R67). DESIGN CHOICE (log entry 30): R61 gives a reserved opcode no length, and here
it is the opcode byte alone. -/
def decodeHc : List Byte → Except DecodeError (Instr × List Byte)
  | [] => .error .noBytes
  | op :: rest =>
    if op = 0x01 then .ok (.init, rest)
    else if op = 0x02 then .ok (.startPairing, rest)
    else if op = 0x03 then
      match rest with
      | n0 :: n1 :: n2 :: n3 :: mt :: mi :: own :: speed :: timer :: more =>
        .ok (.startSetSpeed (recordOf n0 n1 n2 n3 mt mi own) speed timer, more)
      | _ => .error .truncated
    else if op = 0x04 then .ok (.process, rest)
    else if op = 0x05 then .ok (.isOperationComplete, rest)
    else if op = 0x06 then .ok (.lastOperationSuccessful, rest)
    else if op = 0x07 then .ok (.getPairingResult, rest)
    else if op = 0x08 then .ok (.resetOperationState, rest)
    else .ok (.reservedHc op, rest)

/-- An instruction that has no operand byte left over. -/
def exactly (i : Instr) : List Byte → Except DecodeError (Instr × List Byte)
  | [] => .ok (i, [])
  | _ :: _ => .error .badLength

/-- An instruction with one 32-bit operand, little-endian. -/
def withWord (mk : U32 → Instr) : List Byte → Except DecodeError (Instr × List Byte)
  | [b0, b1, b2, b3] => .ok (mk (le32 b0 b1 b2 b3), [])
  | _ => .error .badLength

/-- An instruction whose operand is a whole frame. -/
def withFrame (mk : Frame → Instr) (bs : List Byte) : Except DecodeError (Instr × List Byte) :=
  if bs.length = frameSize then .ok (mk (frameOfBytes bs), []) else .error .badLength

/-- A driver micro-operation: its number (R66), then its operand. -/
def decodeMu : List Byte → Except DecodeError (Instr × List Byte)
  | [] => .error .noBytes
  | n :: rest =>
    if n = 0x21 then exactly .initializeRadio rest
    else if n = 0x22 then exactly .setModeIdle rest
    else if n = 0x23 then exactly .setModeReceive rest
    else if n = 0x24 then exactly .setModeTransmit rest
    else if n = 0x25 then withWord .setTxAddress rest
    else if n = 0x26 then withWord .setRxAddress rest
    else if n = 0x27 then withFrame .writeTxPayload rest
    else if n = 0x28 then exactly .readRxPayload rest
    else .error .unknownMicroOp

/-- The strobe a number names (R39): the numbers are parameters, pairwise distinct. -/
def strobeOf (p : Params) (n : Byte) : Option Strobe :=
  [Strobe.res, .idle, .rx, .tx, .ftx, .frx].find? fun st => p.strobeNum st = n

/-- A chip-select pattern, five bytes an item: a level is its bit and four zeros, a delay is 2 and the microseconds. -/
def decodePattern : List Byte → Option (List CsItem)
  | [] => some []
  | t :: b0 :: b1 :: b2 :: b3 :: more =>
    let w := le32 b0 b1 b2 b3
    if t = 2 then (decodePattern more).map (CsItem.wait w :: ·)
    else if t = 0 ∧ w = 0 then (decodePattern more).map (CsItem.level false :: ·)
    else if t = 1 ∧ w = 0 then (decodePattern more).map (CsItem.level true :: ·)
    else none
  | _ => none

/-- A bus transaction: its kind number (R65), then its operands; the word ends where chip-select is deasserted. -/
def decodeBt (p : Params) : List Byte → Except DecodeError (Instr × List Byte)
  | [] => .error .noBytes
  | kind :: rest =>
    if kind = 0 then
      match rest with
      | [n] => match strobeOf p n with
        | some st => .ok (.strobe st, [])
        | none => .error .unknownStrobe
      | _ => .error .badLength
    else if kind = 1 then
      match rest with
      | [a, v] => .ok (.writeReg a v, [])
      | _ => .error .badLength
    else if kind = 2 then
      match rest with
      | a :: bytes => .ok (.burstWrite a bytes, [])
      | [] => .error .badLength
    else if kind = 3 then
      match rest with
      | [a] => .ok (.readStatus a, [])
      | _ => .error .badLength
    else if kind = 4 then
      match rest with
      | [a, n] => .ok (.burstRead a n.toNat, [])
      | _ => .error .badLength
    else if kind = 5 then
      match decodePattern rest with
      | some pat => .ok (.csPulse pat, [])
      | none => .error .badPattern
    else if kind = 6 then withWord .delay rest
    else .error .unknownBusKind

/-- The instructions a sent frame could stand for, in the table's order, each with the frame it is built as. -/
def sentCandidates (p : Params) (f : Frame) : List (Instr × Frame) :=
  [(.discovery f[3], buildDiscovery p f[3]),
   (.joinRequest (recordOf f[7] f[8] f[9] f[10] f[0] f[1] f[3]),
     buildJoinRequest p (recordOf f[7] f[8] f[9] f[10] f[0] f[1] f[3])),
   (.ack f[0] f[1] f[3], buildAck p f[0] f[1] f[3]),
   (.setSpeed f[0] f[1] f[3] f[7], buildSetSpeed p f[0] f[1] f[3] f[7]),
   (.setTimer f[0] f[1] f[3] f[7] f[8], buildSetTimer p f[0] f[1] f[3] f[7] f[8])]

/-- A frame the block sends: the first row whose builder gives exactly these bytes (R94–R97, R100). -/
def decodeSent (p : Params) (bs : List Byte) : Except DecodeError (Instr × List Byte) :=
  if bs.length = frameSize then
    match (sentCandidates p (frameOfBytes bs)).find? fun c => c.2 = frameOfBytes bs && c.1.wellFormed p with
    | some c => .ok (c.1, [])
    | none => .error .notASentFrame
  else .error .badLength

/-- A frame received in `PairingDiscover`: `JOIN_OPEN` by byte 5, else one of any content (R69, R98, R99). -/
def decodeDiscover (p : Params) (bs : List Byte) : Except DecodeError (Instr × List Byte) :=
  withFrame (fun f => if f.code = p.codeJoinOpen then .joinOpen f else .anyResponse f) bs

/-- The decoder before the operand check. -/
def decodeRaw (p : Params) : Format → List Byte → Except DecodeError (Instr × List Byte)
  | .hc, bs => decodeHc bs
  | .mu, bs => decodeMu bs
  | .bt, bs => decodeBt p bs
  | .frameSent, bs => decodeSent p bs
  | .frameDiscover, bs => decodeDiscover p bs
  | .frameResponse, bs => withFrame .anyResponse bs

/-- The decoder: the instruction a word stands for, and the bytes after it (only host command bytes leave any); a word
that stands for no well-formed instruction is rejected by name. -/
def decode (p : Params) (fmt : Format) (bs : List Byte) : Except DecodeError (Instr × List Byte) :=
  match decodeRaw p fmt bs with
  | .ok (i, rest) => if i.wellFormed p then .ok (i, rest) else .error .illFormed
  | .error e => .error e

/-- One item of a chip-select pattern in the model's byte form. -/
def encodeCsItem : CsItem → List Byte
  | .level high => boolByte high :: bytesLe32 0
  | .wait us => 2 :: bytesLe32 us

/-- The encoder: the format and the bytes of an instruction, from the same tables (R61, R62, R65, R66, R94–R97). -/
def encode (p : Params) : Instr → Format × List Byte
  | .init => (.hc, [0x01])
  | .startPairing => (.hc, [0x02])
  | .startSetSpeed pr speed timer => (.hc, 0x03 :: (prBytes pr ++ [speed, timer]))
  | .process => (.hc, [0x04])
  | .isOperationComplete => (.hc, [0x05])
  | .lastOperationSuccessful => (.hc, [0x06])
  | .getPairingResult => (.hc, [0x07])
  | .resetOperationState => (.hc, [0x08])
  | .reservedHc op => (.hc, [op])
  | .initializeRadio => (.mu, [0x21])
  | .setModeIdle => (.mu, [0x22])
  | .setModeReceive => (.mu, [0x23])
  | .setModeTransmit => (.mu, [0x24])
  | .setTxAddress nid => (.mu, 0x25 :: bytesLe32 nid)
  | .setRxAddress nid => (.mu, 0x26 :: bytesLe32 nid)
  | .writeTxPayload f => (.mu, 0x27 :: f.toList)
  | .readRxPayload => (.mu, [0x28])
  | .strobe st => (.bt, [0, p.strobeNum st])
  | .writeReg a v => (.bt, [1, a, v])
  | .burstWrite a bytes => (.bt, 2 :: a :: bytes)
  | .readStatus a => (.bt, [3, a])
  | .burstRead a n => (.bt, [4, a, BitVec.ofNat 8 n])
  | .csPulse pat => (.bt, 5 :: pat.flatMap encodeCsItem)
  | .delay us => (.bt, 6 :: bytesLe32 us)
  | .discovery ownId => (.frameSent, (buildDiscovery p ownId).toList)
  | .joinRequest pr => (.frameSent, (buildJoinRequest p pr).toList)
  | .ack mt mi own => (.frameSent, (buildAck p mt mi own).toList)
  | .setSpeed mt mi own speed => (.frameSent, (buildSetSpeed p mt mi own speed).toList)
  | .setTimer mt mi own speed timer => (.frameSent, (buildSetTimer p mt mi own speed timer).toList)
  | .joinOpen f => (.frameDiscover, f.toList)
  | .anyResponse f => (.frameResponse, f.toList)

/-- The `n` lowest bytes of a number, least significant first: the opcode table's numbering of a word's bits. -/
def bytesOfNat (n w : Nat) : List Byte := (List.range n).map fun k => BitVec.ofNat 8 (w >>> (8 * k))

/-- How many bytes the word of an opcode-table row has, by its first byte: operand bytes the table gives no bits are
counted (R61, R66). -/
def tableLength (first : Nat) : Nat :=
  if first = 0x03 then 10
  else if first = 0x25 ∨ first = 0x26 then 5
  else if first = 0x27 then 17
  else 1

/-- Which encoding the table's word with this first byte is in: the table gives 0x21–0x28 to the micro-operations,
although the host command space calls these opcodes reserved (R66, R67; log entry 1). -/
def tableFormat (first : Nat) : Format := if 0x21 ≤ first ∧ first ≤ 0x28 then .mu else .hc

/-- The format and the bytes of a table word: `nbits` bits of `w`, zeros above them. -/
def tableWord (nbits w : Nat) : Format × List Byte :=
  let v := w % 2 ^ nbits
  if nbits = 8 * frameSize then (.frameSent, bytesOfNat frameSize v)
  else (tableFormat (v % 256), bytesOfNat (tableLength (v % 256)) v)

/-- The instruction the decoder reads from an instruction whose bits the opcode table numbers as `w`. -/
def decodeTableWord (nbits w : Nat) : Option Instr :=
  match decode Config.params (tableWord nbits w).1 (tableWord nbits w).2 with
  | .ok (i, _) => some i
  | .error _ => none

end Sys2Proof
end

