-- ==== Sys2Proof/Machine/State.lean ====
section
/-! DEFINITION. The state of the RF core (10_state.md): the engine registers, the radio chip as the driver sees it, the
event history; beside them the model's own fields: the refused mark of R140, the outcome of the last step, the inputs
still to come, the draws, and the parameters. -/

namespace Sys2Proof.Machine

/-- `link` (R16). -/
inductive Link where
  | uninit
  | ready
  | fault
  deriving DecidableEq, Repr, Inhabited

/-- `opstate` (R17), in the order of its codes 0–3. -/
inductive OpState where
  | idle
  | transmitting
  | waitingResponse
  | operationComplete
  deriving DecidableEq, Repr, Inhabited

/-- `op`, the RadioOperation (R18), in the order of its tags 0–4. -/
inductive Op where
  | none
  | pairingDiscover (ownId : Byte)
  | pairingJoin (ownId : Byte) (pr : PairingRecord)
  | pairingAck (ownId : Byte) (pr : PairingRecord)
  | setSpeed (pr : PairingRecord) (speed timer : Byte)
  deriving DecidableEq, Repr, Inhabited

/-- The number of an `opstate` (R17). -/
def OpState.code : OpState → Nat
  | .idle => 0
  | .transmitting => 1
  | .waitingResponse => 2
  | .operationComplete => 3

/-- The tag of an `op` (R18). -/
def Op.tag : Op → Nat
  | .none => 0
  | .pairingDiscover _ => 1
  | .pairingJoin _ _ => 2
  | .pairingAck _ _ => 3
  | .setSpeed _ _ _ => 4

/-- The engine registers (R15–R26). -/
structure Engine where
  link : Link
  opstate : OpState
  op : Op
  attempts : Byte
  maxRetries : Byte
  timeoutMs : U32
  attemptStart : U32
  txBuf : Frame
  rxBuf : Frame
  success : Bool
  deriving DecidableEq, Repr, Inhabited

/-- `radio.mode` (R30). -/
inductive RadioMode where
  | idle
  | rx
  | tx
  deriving DecidableEq, Repr, Inhabited

/-- A register space as a list of (number, byte), numbers strictly rising, no byte 0 listed: an unlisted register
reads 0 (log entry 10). -/
abbrev Memory := List Host.Cell

/-- The radio chip (R30–R34). -/
structure Radio where
  mode : RadioMode
  txfifo : List Byte
  rxfifo : List Byte
  addr : Byte
  pktlen : Byte
  cfg : Memory
  deriving DecidableEq, Repr, Inhabited

/-- A bus transaction as the history records it (R75–R80). -/
inductive BusEvent where
  | strobe (st : Strobe)
  | writeReg (a v : Byte)
  | burstWrite (a : Byte) (bytes : List Byte)
  | readStatus (a s : Byte)
  | burstRead (a : Byte) (bytes : List Byte)
  | csPulse (pattern : List CsItem)
  | delay (us : U32)
  deriving DecidableEq, Repr, Inhabited

/-- The causes, in the order of their numbers 0–5 (R133). `busy` and `storageFault` are never recorded (R134, R139). -/
inductive Cause where
  | busy
  | noResponse
  | protocolMismatch
  | retriesExhausted
  | storageFault
  | setupFault
  deriving DecidableEq, Repr, Inhabited

/-- The number of a cause (R133). -/
def Cause.number : Cause → Nat
  | .busy => 0
  | .noResponse => 1
  | .protocolMismatch => 2
  | .retriesExhausted => 3
  | .storageFault => 4
  | .setupFault => 5

/-- An event of the history (R36). -/
inductive Event where
  | bus (t : BusEvent)
  | airTx (bytes : List Byte)
  | airRx (bytes : List Byte)
  | lost
  | cause (c : Cause)
  deriving DecidableEq, Repr, Inhabited

/-- Why the spec's model refuses a command (R140). -/
inductive RefuseReason where
  | linkNotReady
  | setupFaulted
  | initDuringOperation
  | reservedOpcode
  deriving DecidableEq, Repr, Inhabited

/-- The response class of a received frame (R99). -/
inductive ResponseClass where
  | accept
  | mismatch
  | openMatch (pr : PairingRecord)
  deriving DecidableEq, Repr, Inhabited

/-- How the last step ended (R132), and the value an operation below the host commands returns to its caller. -/
inductive StepOutcome where
  /-- No instruction has run yet. -/
  | nothing
  /-- `Ok(response)` of a host command (R132). -/
  | ok (response : List Byte)
  /-- `Busy` (R129, R134). -/
  | busy
  /-- `SetupFault` (R138). -/
  | setupFault
  /-- `Refused(reason)` (R140). -/
  | refused (reason : RefuseReason)
  /-- A micro-operation or bus transaction that returns nothing. -/
  | done
  /-- A micro-operation that returns a bool (R81, R87). -/
  | flag (b : Bool)
  /-- `ReadStatus` (R78). -/
  | status (s : Byte)
  /-- `BurstRead` (R79). -/
  | bytes (l : List Byte)
  /-- A frame builder (R94–R97). -/
  | frame (f : Frame)
  /-- The classifier (R98, R99). -/
  | classified (c : ResponseClass)
  deriving DecidableEq, Repr, Inhabited

/-- One thing that comes to the block: a word in one of its encodings, or a step of the radio agent (R9, R71). -/
inductive Input where
  | word (fmt : Format) (bytes : List Byte)
  | air (a : RadioAct)
  deriving DecidableEq, Repr, Inhabited

/-- The draws (R15: inputs of a step, not state; log entry 3). Each kind has a list of the draws to come; where it is
empty the draw is a free value of Config, a new one for each value of `count`. -/
structure Draws where
  clock : List U32
  ownId : List (Fin 254)
  initOk : List Bool
  txSent : List Bool
  ready : List Bool
  status : List Byte
  chipRegs : List ChipRegs
  rxBuf : List Frame
  /-- The radio agent's steps before each bus transaction to come (R12). -/
  gaps : List (List RadioAct)
  count : Nat
  deriving DecidableEq, Repr, Inhabited

/-- The state. -/
structure State where
  engine : Engine
  radio : Radio
  /-- `history` (R36), oldest event first. -/
  history : List Event
  /-- The refused mark (R140): never cleared. -/
  refusedMark : Bool
  outcome : StepOutcome
  inputs : List Input
  draws : Draws
  params : Params
  deriving DecidableEq, Repr, Inhabited

/-- What stops the machine: the spec's `Fault(Unmodelled)`, "a case the model cannot reach" (R132). -/
inductive Fault where
  /-- Raised by `BurstRead` of more bytes than the RX FIFO holds (R79). Safe: the model stops; no host command gets
  there. -/
  | burstReadPastFifo
  /-- Raised by `PROCESS`, `JOIN_OPEN` and `ANY_RESPONSE` when a received frame is to be classified and no operation is
  live: "cannot occur" (R99, R118). Safe: the model stops; the invariant of R29 rules it out for `PROCESS`. -/
  | noLiveOperation
  deriving DecidableEq, Repr, Inhabited

/-- What has no meaning in the model. The spec's own `Refused(reason)` (R140) is a next state with the mark set, not
one of these (log entry 6). -/
inductive Refusal where
  /-- Raised by `exec` for an instruction that has no meaning yet. Safe. -/
  | notModelled (mnemonic : String)
  /-- Raised by `step` when the next word stands for no instruction. Safe: the model stops. -/
  | undecodable (why : DecodeError)
  deriving DecidableEq, Repr, Inhabited

/-- The engine registers at power-on (R37, R153); `tx_buf` and `rx_buf` may hold any value, here zeros (log entry 8). -/
def Engine.reset : Engine where
  link := .uninit
  opstate := .idle
  op := .none
  attempts := 0
  maxRetries := 0
  timeoutMs := 0
  attemptStart := 0
  txBuf := Vector.replicate 16 0
  rxBuf := Vector.replicate 16 0
  success := false

/-- The radio chip at power-on: every field is unspecified (R154); the values here are the model's (log entry 9). -/
def Radio.reset : Radio where
  mode := .idle
  txfifo := []
  rxfifo := []
  addr := 0
  pktlen := 0
  cfg := []

/-- No draw is fixed in advance. -/
def Draws.reset : Draws where
  clock := []
  ownId := []
  initOk := []
  txSent := []
  ready := []
  status := []
  chipRegs := []
  rxBuf := []
  gaps := []
  count := 0

/-- Block power-on with given parameters (R37, R153, R154). -/
def State.powerOn (p : Params) : State where
  engine := Engine.reset
  radio := Radio.reset
  history := []
  refusedMark := false
  outcome := .nothing
  inputs := []
  draws := Draws.reset
  params := p

/-- The machine right after reset: power-on with the implementation's parameters, of which only the constraints of
R8, R39 and R130 are known (log entry 2). -/
def State.reset : State := State.powerOn Config.params

end Sys2Proof.Machine
end

