-- ==== Sys2Proof/Machine/Flags.lean ====
section
/-! DEFINITION. The derived status values and comparisons (10_state.md R27, 60_exceptions.md R148). There are no
condition codes. -/

namespace Sys2Proof.Machine

/-- `complete = (opstate = OperationComplete)` (R27). -/
def isComplete (e : Engine) : Bool := decide (e.opstate = .operationComplete)

/-- `pairing_result` (R27): the record of a `PairingAck` that completed with success, else none. -/
def pairingResult (e : Engine) : Option PairingRecord :=
  if isComplete e && e.success then
    match e.op with
    | .pairingAck _ pr => some pr
    | .none | .pairingDiscover _ | .pairingJoin _ _ | .setSpeed _ _ _ => none
  else none

/-- `(t − attempt_start) mod 2^32` (R115, R148). -/
def elapsed (e : Engine) (t : U32) : U32 := t - e.attemptStart

/-- Elapsed time is at least `timeout_ms`, as unsigned numbers (R115, R148). -/
def timedOut (e : Engine) (t : U32) : Bool := decide (e.timeoutMs.toNat ≤ (elapsed e t).toNat)

/-- Whether a retry is left, with the attempt counter already counted up (R117). -/
def retryLeft (e : Engine) : Bool := decide (e.attempts.toNat < e.maxRetries.toNat)

end Sys2Proof.Machine
end

