-- ==== Sys2Proof/Machine/Ops.lean ====
section
/-! DEFINITION. The named operations over the state: draws, the register space, history, the radio agent, the effect of
each bus transaction, and the ways a command ends (40_radio_driver.md R75–R80, R88, R89; 42_protocol_engine.md R109;
60_exceptions.md R132–R145). -/

namespace Sys2Proof.Machine

/-! ### Draws (R15; log entry 3) -/

/-- The next draw of a kind: the head of its list; where the list is empty, the free value numbered by the counter. -/
def nextDraw {α : Type} (script : List α) (free : Nat → α) (count : Nat) : α × List α × Nat :=
  match script with
  | [] => (free count, [], count + 1)
  | a :: rest => (a, rest, count)

/-- `Now()` (R147). -/
def drawClock (s : State) : U32 × State :=
  let d := nextDraw s.draws.clock Config.freeClock s.draws.count
  (d.1, { s with draws := { s.draws with clock := d.2.1, count := d.2.2 } })

/-- `DrawOwnId()` (R105). -/
def drawOwnId (s : State) : Byte × State :=
  let d := nextDraw s.draws.ownId Config.freeOwnId s.draws.count
  (ownIdOf d.1, { s with draws := { s.draws with ownId := d.2.1, count := d.2.2 } })

/-- `draw init_ok` (R81). -/
def drawInitOk (s : State) : Bool × State :=
  let d := nextDraw s.draws.initOk Config.freeInitOk s.draws.count
  (d.1, { s with draws := { s.draws with initOk := d.2.1, count := d.2.2 } })

/-- The draw of `pending_tx_resolve` (R89): true is sent, false is lost. -/
def drawTxSent (s : State) : Bool × State :=
  let d := nextDraw s.draws.txSent Config.freeTxSent s.draws.count
  (d.1, { s with draws := { s.draws with txSent := d.2.1, count := d.2.2 } })

/-- The sample of `line_ready` (R87). -/
def drawReady (s : State) : Bool × State :=
  let d := nextDraw s.draws.ready Config.freeReady s.draws.count
  (d.1, { s with draws := { s.draws with ready := d.2.1, count := d.2.2 } })

/-- The status byte before it is bound to the RX FIFO's count (R78). -/
def drawStatus (s : State) : Byte × State :=
  let d := nextDraw s.draws.status Config.freeStatus s.draws.count
  (d.1, { s with draws := { s.draws with status := d.2.1, count := d.2.2 } })

/-- The chip registers after `S_RES` (R89). -/
def drawChipRegs (s : State) : ChipRegs × State :=
  let d := nextDraw s.draws.chipRegs Config.freeChipRegs s.draws.count
  (d.1, { s with draws := { s.draws with chipRegs := d.2.1, count := d.2.2 } })

/-- The content of `rx_buf` after a failed poll (R25, U2). -/
def drawRxBuf (s : State) : Frame × State :=
  let d := nextDraw s.draws.rxBuf Config.freeRxBuf s.draws.count
  (d.1, { s with draws := { s.draws with rxBuf := d.2.1, count := d.2.2 } })

/-- The radio agent's steps before the next bus transaction or recorded cause (R12, R88). -/
def drawGap (s : State) : List RadioAct × State :=
  let d := nextDraw s.draws.gaps Config.freeRadioActs s.draws.count
  (d.1, { s with draws := { s.draws with gaps := d.2.1, count := d.2.2 } })

/-! ### The register space (R38, R39) -/

/-- The byte of a register: the listed one, else 0. -/
def Memory.read : Memory → Nat → Byte
  | [], _ => 0
  | c :: rest, a => if c.1 = a then c.2 else Memory.read rest a

/-- Write a register, keeping the numbers rising and no 0 listed. -/
def Memory.write : Memory → Nat → Byte → Memory
  | [], a, v => if v = 0 then [] else [(a, v)]
  | c :: rest, a, v =>
    if c.1 < a then c :: Memory.write rest a v
    else if c.1 = a then (if v = 0 then rest else (a, v) :: rest)
    else (if v = 0 then c :: rest else (a, v) :: c :: rest)

/-- The canonical form: numbers strictly rising, no 0 listed. -/
def Memory.wf (m : Memory) : Bool :=
  decide (m.Pairwise fun c d => c.1 < d.1) && m.all fun c => decide (c.2 ≠ 0)

/-- The register space that holds the listed values and 0 elsewhere. -/
def Memory.ofRegs (l : List (Nat × Byte)) : Memory := l.foldl (fun m c => Memory.write m c.1 c.2) []

/-! ### History (R36) -/

/-- Append one event. -/
def logEvent (ev : Event) (s : State) : State := { s with history := s.history ++ [ev] }

/-- Append one bus transaction. -/
def logBus (t : BusEvent) (s : State) : State := logEvent (.bus t) s

/-! ### The radio agent (R88) -/

/-- One step of the radio agent; a step that is not enabled does not happen (log entry 23). -/
def radioStep (a : RadioAct) (s : State) : State :=
  match a with
  | .airTx toRx =>
    if s.radio.mode = .tx ∧ s.radio.txfifo ≠ [] then
      { logEvent (.airTx s.radio.txfifo) s with
        radio := { s.radio with txfifo := [], mode := if toRx then .rx else .idle } }
    else s
  | .airRx bytes =>
    if s.radio.mode = .rx ∧ bytes ≠ [] then
      { logEvent (.airRx bytes) s with
        radio := { s.radio with
          rxfifo := s.radio.rxfifo ++ bytes.take (s.params.rxfifoCap - s.radio.rxfifo.length) } }
    else s
  | .rxOff =>
    if s.radio.mode = .rx then { s with radio := { s.radio with mode := .idle } } else s

/-- The steps the radio agent takes before one bus transaction, or before a cause is recorded, in order (R12, R49,
R88; log entry 4). -/
def radioGap (s : State) : State := (drawGap s).1.foldl (fun u a => radioStep a u) (drawGap s).2

/-- Record a cause (R133). The radio agent may have stepped since the transaction before it: its steps come "at any
point between two bus transactions" (R88), so also between a transaction and a cause. -/
def recordCause (c : Cause) (s : State) : State := logEvent (.cause c) (radioGap s)

/-! ### The chip's effect of each transaction (R76, R77, R89) -/

/-- `pending_tx_resolve` (R89): a frame still waiting in TX is sent first, or cut off. -/
def pendingTxResolve (s : State) : State :=
  if s.radio.mode = .tx ∧ s.radio.txfifo ≠ [] then
    let d := drawTxSent s
    let u := logEvent (if d.1 then .airTx s.radio.txfifo else .lost) d.2
    { u with radio := { u.radio with txfifo := [] } }
  else s

/-- Put the chip in a mode. -/
def setChipMode (m : RadioMode) (s : State) : State := { s with radio := { s.radio with mode := m } }

/-- `S_RES` (R89): idle, both FIFOs empty, the registers at any value. -/
def chipReset (s : State) : State :=
  let d := drawChipRegs s
  { d.2 with
    radio := { mode := .idle, txfifo := [], rxfifo := [], addr := d.1.addr, pktlen := d.1.pktlen,
               cfg := Memory.ofRegs d.1.cfg } }

/-- `chip_strobe(s)` (R89). -/
def chipStrobe (st : Strobe) (s : State) : State :=
  match st with
  | .res => chipReset s
  | .idle => setChipMode .idle (pendingTxResolve s)
  | .rx => setChipMode .rx (pendingTxResolve s)
  | .tx => setChipMode .tx s
  | .ftx => { s with radio := { s.radio with txfifo := [] } }
  | .frx => { s with radio := { s.radio with rxfifo := [] } }

/-- `WriteRegEffect(a, v)` (R76, R77): the state effect of writing one register. -/
def writeRegEffect (a : Nat) (v : Byte) (s : State) : State :=
  if a = s.params.regAddr.toNat then { s with radio := { s.radio with addr := v } }
  else if a = s.params.regPktlen.toNat then { s with radio := { s.radio with pktlen := v } }
  else { s with radio := { s.radio with cfg := Memory.write s.radio.cfg a v } }

/-- A burst fills consecutive registers from `a` (R77). -/
def burstRegEffect : Nat → List Byte → State → State
  | _, [], s => s
  | a, v :: rest, s => burstRegEffect (a + 1) rest (writeRegEffect a v s)

/-- The effect of a burst write (R77): into the TX FIFO, or into consecutive registers. -/
def burstWriteEffect (a : Byte) (bytes : List Byte) (s : State) : State :=
  if a = s.params.regTxfifo then { s with radio := { s.radio with txfifo := s.radio.txfifo ++ bytes } }
  else burstRegEffect a.toNat bytes s

/-- The status byte a draw stands for (R78): the drawn byte if it shows `n` bytes, else the first byte that does. -/
def statusShowing (p : Params) (n : Nat) (raw : Byte) : Byte :=
  if p.rxCount raw = n then raw
  else ((List.range 256).map (BitVec.ofNat 8)).find? (fun b => p.rxCount b = n) |>.getD raw

/-! ### Bus transactions: the radio agent may step first, then the transaction is indivisible (R12, R49) -/

/-- `Strobe(s)` (R75). -/
def busStrobe (st : Strobe) (s : State) : State := chipStrobe st (logBus (.strobe st) (radioGap s))

/-- `WriteReg(a, v)` (R76). -/
def busWriteReg (a v : Byte) (s : State) : State := writeRegEffect a.toNat v (logBus (.writeReg a v) (radioGap s))

/-- `BurstWrite(a, bytes)` (R77). -/
def busBurstWrite (a : Byte) (bytes : List Byte) (s : State) : State :=
  burstWriteEffect a bytes (logBus (.burstWrite a bytes) (radioGap s))

/-- `ReadStatus(a)` (R78). -/
def busReadStatus (a : Byte) (s : State) : Byte × State :=
  let u := radioGap s
  let d := drawStatus u
  let b := statusShowing u.params u.radio.rxfifo.length d.1
  (b, logBus (.readStatus a b) d.2)

/-- The effect of a `BurstRead` that finds its `n` bytes (R79). -/
def takeRxBytes (a : Byte) (n : Nat) (s : State) : List Byte × State :=
  let out := s.radio.rxfifo.take n
  (out, logBus (.burstRead a out) { s with radio := { s.radio with rxfifo := s.radio.rxfifo.drop n } })

/-- `BurstRead(a, n)` (R79): none is `Fault(Unmodelled)`, fewer than `n` bytes in the RX FIFO. -/
def busBurstRead (a : Byte) (n : Nat) (s : State) : Option (List Byte × State) :=
  let u := radioGap s
  if u.radio.rxfifo.length < n then none else some (takeRxBytes a n u)

/-- `CsPulse(pattern)` (R80). -/
def busCsPulse (pattern : List CsItem) (s : State) : State := logBus (.csPulse pattern) (radioGap s)

/-- `Delay(us)` (R80). -/
def busDelay (us : U32) (s : State) : State := logBus (.delay us) (radioGap s)

/-- `set_mode_idle()` (R82), which the ends of an operation use. -/
def setModeIdle (s : State) : State := busDelay s.params.settleUs (busStrobe .idle s)

/-! ### How a command ends (R132) -/

/-- The step ends with this outcome. -/
def finish (o : StepOutcome) (s : State) : Host.Outcome State Fault Refusal := .next { s with outcome := o }

/-- `refuse(reason)` (R140, R142): the mark is set for good, and nothing else is done. -/
def refuse (r : RefuseReason) (s : State) : Host.Outcome State Fault Refusal :=
  .next { s with refusedMark := true, outcome := .refused r }

/-- `complete(ok, idle)` (R109): how an operation ends. With `ok = false` it is the entry into the failed state (R143):
`op` is kept, `success` is false, and the radio is idled where `idle` says so. -/
def complete (ok idle : Bool) (s : State) : State :=
  let s1 := { s with engine := { s.engine with success := ok } }
  let s2 := if idle then setModeIdle s1 else s1
  { s2 with engine := { s2.engine with opstate := .operationComplete } }

/-- The return from the failed or done state (R127, R144): `Idle / None`, the operation's registers 0, the radio idle. -/
def engineReset (s : State) : State :=
  setModeIdle { s with engine := { s.engine with
    opstate := .idle, op := .none, attempts := 0, maxRetries := 0, timeoutMs := 0, attemptStart := 0 } }

/-- A failed bring-up (R128, R138): `link = FAULT` for good and the cause recorded. -/
def setupFault (s : State) : State :=
  recordCause .setupFault { s with engine := { s.engine with link := .fault } }

end Sys2Proof.Machine
end

