-- ==== Sys2Proof/Machine/Bus.lean ====
section
/-! DEFINITION. The meanings of the BT rows: one bus transaction each (40_radio_driver.md R75–R80), and what a
transaction puts on the wire (30_encoding.md R65). -/

namespace Sys2Proof.Machine

/-- BT 0 `Strobe(s)` (R75). -/
def execStrobe (st : Strobe) (s : State) : Host.Outcome State Fault Refusal := finish .done (busStrobe st s)

/-- BT 1 `WriteReg(a, v)` (R76). -/
def execWriteReg (a v : Byte) (s : State) : Host.Outcome State Fault Refusal := finish .done (busWriteReg a v s)

/-- BT 2 `BurstWrite(a, bytes)` (R77). -/
def execBurstWrite (a : Byte) (bytes : List Byte) (s : State) : Host.Outcome State Fault Refusal :=
  finish .done (busBurstWrite a bytes s)

/-- BT 3 `ReadStatus(a)` (R78). -/
def execReadStatus (a : Byte) (s : State) : Host.Outcome State Fault Refusal :=
  finish (.status (busReadStatus a s).1) (busReadStatus a s).2

/-- BT 4 `BurstRead(a, n)` (R79): `Fault(Unmodelled)` when the RX FIFO holds fewer than `n` bytes. -/
def execBurstRead (a : Byte) (n : Nat) (s : State) : Host.Outcome State Fault Refusal :=
  match busBurstRead a n s with
  | none => .fault .burstReadPastFifo
  | some r => finish (.bytes r.1) r.2

/-- BT 5 `CsPulse(pattern)` (R80). -/
def execCsPulse (pattern : List CsItem) (s : State) : Host.Outcome State Fault Refusal :=
  finish .done (busCsPulse pattern s)

/-- BT 6 `Delay(us)` (R80). -/
def execDelay (us : U32) (s : State) : Host.Outcome State Fault Refusal := finish .done (busDelay us s)

/-- What one transaction puts on the serial bus (R65). -/
inductive WireEvent where
  | csAssert
  | csDeassert
  | byteOut (b : Byte)
  | byteIn (b : Byte)
  | pattern (items : List CsItem)
  | quiet (us : U32)
  deriving DecidableEq, Repr

/-- A transaction framed by chip-select: the header `HDR(kind, a)`, then its data bytes (R47, R65). -/
def framed (kind : Nat) (a : Byte) (data : List WireEvent) : List WireEvent :=
  [.csAssert, .byteOut (Config.hdr kind a)] ++ data ++ [.csDeassert]

/-- The wire form of a transaction of the history (R65). -/
def wireOf (p : Params) : BusEvent → List WireEvent
  | .strobe st => framed 0 (p.strobeNum st) []
  | .writeReg a v => framed 1 a [.byteOut v]
  | .burstWrite a bytes => framed 2 a (bytes.map .byteOut)
  | .readStatus a s => framed 3 a [.byteIn s]
  | .burstRead a bytes => framed 4 a (bytes.map .byteIn)
  | .csPulse items => [.pattern items]
  | .delay us => [.quiet us]

end Sys2Proof.Machine
end

