-- ==== Sys2Proof/Machine/Codec.lean ====
section
/-! DEFINITION. The meanings of the F16 rows: the builders of the frames the block sends and the classifier of those it
receives (41_frame_codec.md R94–R99). They write no register: the result is the step's outcome. -/

namespace Sys2Proof.Machine

/-- `classify(op, rx)` (R99): none where no operation is live, which "cannot occur". -/
def classify (p : Params) (op : Op) (rx : Frame) : Option ResponseClass :=
  match op with
  | .none => none
  | .setSpeed _ _ _ => some .accept
  | .pairingDiscover ownId =>
    match parseDiscoveryResponse p rx ownId with
    | none => some .mismatch
    | some pr => some (.openMatch pr)
  | .pairingJoin _ _ => some .accept
  | .pairingAck _ _ => some .accept

/-- The class of a frame for the live operation, as the step's outcome (R98, R99). -/
def classifyFrame (f : Frame) (s : State) : Host.Outcome State Fault Refusal :=
  match classify s.params s.engine.op f with
  | none => .fault .noLiveOperation
  | some c => finish (.classified c) s

/-- F16 `DISCOVERY` (R94). -/
def execDiscovery (ownId : Byte) (s : State) : Host.Outcome State Fault Refusal :=
  finish (.frame (buildDiscovery s.params ownId)) s

/-- F16 `JOIN_REQUEST` (R95). -/
def execJoinRequest (pr : PairingRecord) (s : State) : Host.Outcome State Fault Refusal :=
  finish (.frame (buildJoinRequest s.params pr)) s

/-- F16 `ACK` (R96). -/
def execAck (mainType mainId ownId : Byte) (s : State) : Host.Outcome State Fault Refusal :=
  finish (.frame (buildAck s.params mainType mainId ownId)) s

/-- F16 `SET_SPEED` (R97). -/
def execSetSpeed (mainType mainId ownId speed : Byte) (s : State) : Host.Outcome State Fault Refusal :=
  finish (.frame (buildSetSpeed s.params mainType mainId ownId speed)) s

/-- F16 `SET_TIMER` (R97). -/
def execSetTimer (mainType mainId ownId speed timer : Byte) (s : State) : Host.Outcome State Fault Refusal :=
  finish (.frame (buildSetTimer s.params mainType mainId ownId speed timer)) s

/-- F16 `JOIN_OPEN` (R98): the received frame is read for the live operation. -/
def execJoinOpen (f : Frame) (s : State) : Host.Outcome State Fault Refusal := classifyFrame f s

/-- F16 `ANY_RESPONSE` (R99): the received frame is read for the live operation. -/
def execAnyResponse (f : Frame) (s : State) : Host.Outcome State Fault Refusal := classifyFrame f s

end Sys2Proof.Machine
end

