-- ==== Sys2Proof/Machine/Driver.lean ====
section
/-! DEFINITION. The driver micro-operations (40_radio_driver.md R81–R87) and the meanings of the MU rows. -/

namespace Sys2Proof.Machine

/-- The sequence of `initialize()` (R81): reset pulse, reset strobe, configuration burst, packet length. -/
def configureRadio (s : State) : State :=
  busWriteReg s.params.regPktlen (BitVec.ofNat 8 frameSize)
    (busBurstWrite s.params.cfgBase s.params.configTable
      (busStrobe .res (busCsPulse s.params.resetSequence s)))

/-- `initialize()` (R81): the sequence, then the draw `init_ok`. -/
def bringUp (s : State) : Bool × State := drawInitOk (configureRadio s)

/-- `set_mode_receive()` (R83). -/
def setModeReceive (s : State) : State := busDelay s.params.settleUs (busStrobe .rx s)

/-- `set_mode_transmit()` (R84). -/
def setModeTransmit (s : State) : State := busDelay s.params.settleUs (busStrobe .tx s)

/-- `set_address(nid)` (R85): the one shared filter takes the low byte. -/
def setAddress (nid : U32) (s : State) : State := busWriteReg s.params.regAddr (lowByte nid) s

/-- `set_tx_address(nid)` (R85). -/
def setTxAddress (nid : U32) (s : State) : State := setAddress nid s

/-- `set_rx_address(nid)` (R85). -/
def setRxAddress (nid : U32) (s : State) : State := setAddress nid s

/-- `write_tx_payload(bytes)` (R86): forces idle, flushes the TX FIFO, bursts the frame into it. -/
def writeTxPayload (f : Frame) (s : State) : State :=
  busBurstWrite s.params.regTxfifo f.toList (busStrobe .ftx (setModeIdle s))

/-- The sample of `line_ready` with `P_RX_GATE`, else no sample (R87): whether the poll goes on. -/
def rxGateOpen (s : State) : Bool × State := if s.params.rxGate then drawReady s else (true, s)

/-- A poll that returns false (R25, R87, U2): nothing but the content of `rx_buf`, which is then a free value. -/
def pollFailed (s : State) : Bool × State :=
  let d := drawRxBuf s
  (false, { d.2 with engine := { d.2.engine with rxBuf := d.1 } })

/-- A poll that found a frame (R87): 16 bytes into `rx_buf`, then the RX FIFO is flushed. The read cannot run short:
the count showed 16 bytes and the radio agent only adds some (R79; Laws: `busReadStatus_then_gap_enough`). -/
def pollFrame (s : State) : Bool × State :=
  let r := takeRxBytes s.params.regRxfifo frameSize (radioGap s)
  (true, busStrobe .frx { r.2 with engine := { r.2.engine with rxBuf := frameOfBytes r.1 } })

/-- `read_rx_payload(rx_buf)` (R87): one frame if a whole one is waiting; never waits. -/
def readRxPayload (s : State) : Bool × State :=
  let g := rxGateOpen s
  if g.1 then
    let st := busReadStatus g.2.params.regRxbytes g.2
    if st.2.params.rxCount st.1 < frameSize then pollFailed st.2 else pollFrame st.2
  else pollFailed g.2

/-- MU 0x21 `initialize` (R81). -/
def execInitializeRadio (s : State) : Host.Outcome State Fault Refusal := finish (.flag (bringUp s).1) (bringUp s).2

/-- MU 0x22 `set_mode_idle` (R82). -/
def execSetModeIdle (s : State) : Host.Outcome State Fault Refusal := finish .done (setModeIdle s)

/-- MU 0x23 `set_mode_receive` (R83). -/
def execSetModeReceive (s : State) : Host.Outcome State Fault Refusal := finish .done (setModeReceive s)

/-- MU 0x24 `set_mode_transmit` (R84). -/
def execSetModeTransmit (s : State) : Host.Outcome State Fault Refusal := finish .done (setModeTransmit s)

/-- MU 0x25 `set_tx_address` (R85). -/
def execSetTxAddress (nid : U32) (s : State) : Host.Outcome State Fault Refusal := finish .done (setTxAddress nid s)

/-- MU 0x26 `set_rx_address` (R85). -/
def execSetRxAddress (nid : U32) (s : State) : Host.Outcome State Fault Refusal := finish .done (setRxAddress nid s)

/-- MU 0x27 `write_tx_payload` (R86). -/
def execWriteTxPayload (f : Frame) (s : State) : Host.Outcome State Fault Refusal := finish .done (writeTxPayload f s)

/-- MU 0x28 `read_rx_payload` (R87). -/
def execReadRxPayload (s : State) : Host.Outcome State Fault Refusal :=
  finish (.flag (readRxPayload s).1) (readRxPayload s).2

end Sys2Proof.Machine
end

