-- ==== Sys2Proof/Machine/Protocol.lean ====
section
/-! DEFINITION. The protocol engine (42_protocol_engine.md R105–R131): its helpers and the meanings of the HC rows. -/

namespace Sys2Proof.Machine

/-- `arm(v, budget)` (R106). -/
def arm (v : Op) (budget : Byte) (s : State) : State :=
  { s with engine := { s.engine with
      op := v, attempts := 0, maxRetries := budget, timeoutMs := s.params.tCmd, success := false } }

/-- `program_address(nid)` (R107): the TX setter, then the RX setter. -/
def programAddress (nid : U32) (s : State) : State := setRxAddress nid (setTxAddress nid s)

/-- `resend()` (R108): the payload as it stands, then transmit mode. -/
def resend (s : State) : State :=
  let u := setModeTransmit (writeTxPayload s.engine.txBuf s)
  { u with engine := { u.engine with opstate := .transmitting } }

/-- `send(f)` (R108). -/
def send (f : Frame) (s : State) : State := resend { s with engine := { s.engine with txBuf := f } }

/-- `retry_or_fail()` (R117). -/
def retryOrFail (s : State) : State :=
  let u := { s with engine := { s.engine with attempts := s.engine.attempts + 1 } }
  if retryLeft u.engine then resend (recordCause .noResponse u)
  else complete false true (recordCause .retriesExhausted u)

/-- The discover-to-join change (R121). -/
def enterJoin (ownId : Byte) (pr : PairingRecord) (s : State) : State :=
  let u := { s with engine := { s.engine with op := .pairingJoin ownId pr, attempts := 0 } }
  send (buildJoinRequest s.params pr) (programAddress pr.networkId u)

/-- The join-to-ack change (R122); `N_ACK = 1` (R7). -/
def enterAck (ownId : Byte) (pr : PairingRecord) (s : State) : State :=
  let u := { s with engine := { s.engine with op := .pairingAck ownId pr, attempts := 0, maxRetries := 1 } }
  send (buildAck s.params pr.mainType pr.mainId pr.ownId) u

/-- `dispatch_response()` (R118–R123): none where no rule has the pair (no operation is live). -/
def dispatchResponse (s : State) : Option State :=
  match s.engine.op, classify s.params s.engine.op s.engine.rxBuf with
  | .setSpeed _ _ _, some _ => some (complete true s.params.idleOnResponseComplete s)
  | .pairingDiscover ownId, some (.openMatch pr) => some (enterJoin ownId pr s)
  | .pairingDiscover _, some _ =>
    some (complete false s.params.idleOnResponseComplete (recordCause .protocolMismatch s))
  | .pairingJoin ownId pr, some _ => some (enterAck ownId pr s)
  | .pairingAck _ _, some _ => some (complete true s.params.idleOnResponseComplete s)
  | _, _ => none

/-- `PROCESS` in `Transmitting` (R114). -/
def processTransmitting (t : U32) (s : State) : State :=
  setModeReceive { s with engine := { s.engine with opstate := .waitingResponse, attemptStart := t } }

/-- `PROCESS` in `WaitingResponse` (R115): the poll first, the timeout only otherwise. -/
def processWaiting (t : U32) (s : State) : Option State :=
  let r := readRxPayload s
  if r.1 then dispatchResponse r.2
  else if timedOut r.2.engine t then some (retryOrFail r.2)
  else some r.2

/-- HC 0x01 `INIT` (R128). -/
def execInit (s : State) : Host.Outcome State Fault Refusal :=
  if s.engine.link = .fault then refuse .setupFaulted s
  else if s.engine.link = .ready ∧ s.engine.opstate ≠ .idle then refuse .initDuringOperation s
  else
    let r := bringUp s
    finish (if r.1 then .ok [] else .setupFault)
      (if r.1 then { r.2 with engine := { r.2.engine with link := .ready } } else setupFault r.2)

/-- HC 0x02 `START_PAIRING` (R110). -/
def execStartPairing (s : State) : Host.Outcome State Fault Refusal :=
  if s.engine.link ≠ .ready then refuse .linkNotReady s
  else if s.engine.opstate ≠ .idle then finish .busy s
  else
    let d := drawOwnId s
    let u := arm (.pairingDiscover d.1) s.params.nCmd d.2
    finish (.ok []) (send (buildDiscovery s.params d.1) (programAddress s.params.linkNetworkId u))

/-- HC 0x03 `START_SET_SPEED rec, speed, timer` (R111). -/
def execStartSetSpeed (pr : PairingRecord) (speed timer : Byte) (s : State) : Host.Outcome State Fault Refusal :=
  if s.engine.link ≠ .ready then refuse .linkNotReady s
  else if s.engine.opstate ≠ .idle then finish .busy s
  else
    let u := arm (.setSpeed pr speed timer) s.params.nCmd s
    finish (.ok []) (send (buildCommand s.params pr speed timer) (programAddress pr.networkId u))

/-- HC 0x04 `PROCESS` (R112–R116): one clock sample a call. -/
def execProcess (s : State) : Host.Outcome State Fault Refusal :=
  if s.engine.link ≠ .ready then refuse .linkNotReady s
  else
    let d := drawClock s
    match s.engine.opstate with
    | .idle => finish (.ok []) d.2
    | .transmitting => finish (.ok []) (processTransmitting d.1 d.2)
    | .waitingResponse =>
      match processWaiting d.1 d.2 with
      | some u => finish (.ok []) u
      | none => .fault .noLiveOperation
    | .operationComplete => finish (.ok []) d.2

/-- HC 0x05 `IS_OPERATION_COMPLETE` (R124). -/
def execIsOperationComplete (s : State) : Host.Outcome State Fault Refusal :=
  if s.engine.link ≠ .ready then refuse .linkNotReady s
  else finish (.ok [boolByte (isComplete s.engine)]) s

/-- HC 0x06 `LAST_OPERATION_SUCCESSFUL` (R125). -/
def execLastOperationSuccessful (s : State) : Host.Outcome State Fault Refusal :=
  if s.engine.link ≠ .ready then refuse .linkNotReady s
  else finish (.ok [boolByte s.engine.success]) s

/-- HC 0x07 `GET_PAIRING_RESULT` (R126, R63). -/
def execGetPairingResult (s : State) : Host.Outcome State Fault Refusal :=
  if s.engine.link ≠ .ready then refuse .linkNotReady s
  else finish (.ok (resultBytes (pairingResult s.engine))) s

/-- HC 0x08 `RESET_OPERATION_STATE` (R127). -/
def execResetOperationState (s : State) : Host.Outcome State Fault Refusal :=
  if s.engine.link ≠ .ready then refuse .linkNotReady s
  else finish (.ok []) (engineReset s)

/-- The reserved HC opcodes (R67, R140). While the link is not READY the reason is that of any command but `INIT`, as R138
has it after a fault (before `INIT` no rule says which of R140's two reasons it is: log entry 6). -/
def execReservedHc (_opcode : Byte) (s : State) : Host.Outcome State Fault Refusal :=
  if s.engine.link ≠ .ready then refuse .linkNotReady s else refuse .reservedOpcode s

end Sys2Proof.Machine
end

