-- ==== Sys2Proof/Machine/Dispatch.lean ====
section
/-! DEFINITION. One arm for each instruction. -/

namespace Sys2Proof.Machine

def exec (i : Instr) (s : State) : Host.Outcome State Fault Refusal :=
  match i with
  -- HC
  | .init => Sys2Proof.Machine.execInit s
  | .startPairing => Sys2Proof.Machine.execStartPairing s
  | .startSetSpeed pr speed timer => Sys2Proof.Machine.execStartSetSpeed pr speed timer s
  | .process => Sys2Proof.Machine.execProcess s
  | .isOperationComplete => Sys2Proof.Machine.execIsOperationComplete s
  | .lastOperationSuccessful => Sys2Proof.Machine.execLastOperationSuccessful s
  | .getPairingResult => Sys2Proof.Machine.execGetPairingResult s
  | .resetOperationState => Sys2Proof.Machine.execResetOperationState s
  | .reservedHc opcode => Sys2Proof.Machine.execReservedHc opcode s
  -- MU
  | .initializeRadio => Sys2Proof.Machine.execInitializeRadio s
  | .setModeIdle => Sys2Proof.Machine.execSetModeIdle s
  | .setModeReceive => Sys2Proof.Machine.execSetModeReceive s
  | .setModeTransmit => Sys2Proof.Machine.execSetModeTransmit s
  | .setTxAddress nid => Sys2Proof.Machine.execSetTxAddress nid s
  | .setRxAddress nid => Sys2Proof.Machine.execSetRxAddress nid s
  | .writeTxPayload frame => Sys2Proof.Machine.execWriteTxPayload frame s
  | .readRxPayload => Sys2Proof.Machine.execReadRxPayload s
  -- BT
  | .strobe st => Sys2Proof.Machine.execStrobe st s
  | .writeReg a v => Sys2Proof.Machine.execWriteReg a v s
  | .burstWrite a bytes => Sys2Proof.Machine.execBurstWrite a bytes s
  | .readStatus a => Sys2Proof.Machine.execReadStatus a s
  | .burstRead a n => Sys2Proof.Machine.execBurstRead a n s
  | .csPulse pattern => Sys2Proof.Machine.execCsPulse pattern s
  | .delay us => Sys2Proof.Machine.execDelay us s
  -- F16
  | .discovery ownId => Sys2Proof.Machine.execDiscovery ownId s
  | .joinRequest pr => Sys2Proof.Machine.execJoinRequest pr s
  | .ack mainType mainId ownId => Sys2Proof.Machine.execAck mainType mainId ownId s
  | .setSpeed mainType mainId ownId speed => Sys2Proof.Machine.execSetSpeed mainType mainId ownId speed s
  | .setTimer mainType mainId ownId speed timer => Sys2Proof.Machine.execSetTimer mainType mainId ownId speed timer s
  | .joinOpen frame => Sys2Proof.Machine.execJoinOpen frame s
  | .anyResponse frame => Sys2Proof.Machine.execAnyResponse frame s

end Sys2Proof.Machine
end

