-- ==== Sys2Proof/Machine/Fetch.lean ====
section
/-! DEFINITION. Where the next instruction comes from: the block has no program (20_memory.md R52), so it is the word
at the head of the inputs (log entry 5). -/

namespace Sys2Proof.Machine

/-- The block does nothing between host commands (R9); the radio agent may (R88). -/
def idleStep (s : State) : State := radioGap s

/-- A word leaves the inputs; host command bytes after the command stay as the next word. -/
def consume (fmt : Format) (left : List Byte) (rest : List Input) (s : State) : State :=
  { s with inputs := if left = [] then rest else .word fmt left :: rest }

/-- Put the instruction an opcode-table word stands for where the next step takes its instruction: its own bytes and
no more, before the inputs that wait. -/
def placeWord (s : State) (nbits w : Nat) : State :=
  let t := tableWord nbits w
  { s with inputs := .word t.1 t.2 :: s.inputs }

end Sys2Proof.Machine
end

