-- ==== Sys2Proof/Machine/Step.lean ====
section
/-! DEFINITION. One step: the head of the inputs, a word for the block or a step of the radio agent; with no input, the
radio agent alone (00_scope.md R9, R10). -/

namespace Sys2Proof.Machine

def step (s : State) : Host.Outcome State Fault Refusal :=
  match s.inputs with
  | [] => .next (idleStep s)
  | .air a :: rest => .next (radioStep a { s with inputs := rest })
  | .word fmt bs :: rest =>
    match decode s.params fmt bs with
    | .ok (i, left) => exec i (consume fmt left rest s)
    | .error e => .refused (.undecodable e)

def State.withFetchWord (s : State) (nbits w : Nat) : State := placeWord s nbits w

end Sys2Proof.Machine
end

