-- ==== Sys2Proof/Safety.lean ====
section
/-! DEFINITION. The terms claims are written in: traces of the history, the radio agent keeping still, a frame waiting,
what a command leaves alone, and the invariant of the machine (10_state.md R29, 42_protocol_engine.md R130). -/

namespace Sys2Proof.Machine

/-- The bus transactions of a history, in order (R36). -/
def busTrace (h : List Event) : List BusEvent :=
  h.filterMap fun ev => match ev with
    | .bus t => some t
    | .airTx _ | .airRx _ | .lost | .cause _ => none

/-- The causes a history records, in order (R36, R133). -/
def causeTrace (h : List Event) : List Cause :=
  h.filterMap fun ev => match ev with
    | .cause c => some c
    | .bus _ | .airTx _ | .airRx _ | .lost => none

/-- The radio agent takes no step before the next `n` bus transactions. -/
def State.quiet (n : Nat) (s : State) : Prop := ∃ rest, s.draws.gaps = List.replicate n [] ++ rest

/-- A poll gets past the gate: there is none, or `line_ready` reads 1 (R87). -/
def State.gateOpen (s : State) : Prop := s.params.rxGate = false ∨ ∃ rest, s.draws.ready = true :: rest

/-- The next poll finds a frame: 16 bytes are in the RX FIFO already (R69, R87). -/
structure State.FrameWaiting (s : State) : Prop where
  params_wf : s.params.wf = true
  gate : s.gateOpen
  enough : 16 ≤ s.radio.rxfifo.length
  within : s.radio.rxfifo.length ≤ s.params.rxfifoCap

/-- The next poll reads the byte count and finds no frame (R87). -/
structure State.NoFrame (s : State) : Prop where
  params_wf : s.params.wf = true
  gate : s.gateOpen
  still : s.quiet 1
  few : s.radio.rxfifo.length < 16

/-- The next poll stops at the gate: `line_ready` reads 0, and no transaction is issued (R87). -/
def State.GateShut (s : State) : Prop := s.params.rxGate = true ∧ ∃ rest, s.draws.ready = false :: rest

/-- The transactions `l` of the next poll where it finds no frame (R87): none behind a shut gate, else one status read
that shows the count. -/
def State.failedPoll (s : State) (l : List BusEvent) : Prop :=
  (s.GateShut ∧ l = []) ∨
  (s.NoFrame ∧ ∃ b, s.params.rxCount b = s.radio.rxfifo.length ∧ l = [.readStatus s.params.regRxbytes b])

/-- What no bus transaction touches: the parameters, the inputs to come and the refused mark. -/
def State.sameContext (s t : State) : Prop :=
  t.params = s.params ∧ t.inputs = s.inputs ∧ t.refusedMark = s.refusedMark

/-- The chip's registers hold what they held: every byte of the register space, the filter and the packet length. -/
def State.sameChipRegs (s t : State) : Prop :=
  t.radio.addr = s.radio.addr ∧ t.radio.pktlen = s.radio.pktlen ∧
    ∀ a, Memory.read t.radio.cfg a = Memory.read s.radio.cfg a

/-- The bus transactions that put a frame on the air (R84, R86, R108). -/
def sendEvents (p : Params) (f : Frame) : List BusEvent :=
  [.strobe .idle, .delay p.settleUs, .strobe .ftx, .burstWrite p.regTxfifo f.toList, .strobe .tx, .delay p.settleUs]

/-- The transactions that program the shared filter for a network (R85, R107). -/
def addressEvents (p : Params) (nid : U32) : List BusEvent :=
  [.writeReg p.regAddr (nid.extractLsb' 0 8), .writeReg p.regAddr (nid.extractLsb' 0 8)]

/-- The events an idle or receive strobe adds when a frame still waits in TX: it went out first, or it was cut off
(R89, `pending_tx_resolve`); none otherwise. -/
def pendingResolved (r : Radio) (l : List Event) : Prop :=
  if r.mode = .tx ∧ r.txfifo ≠ [] then l = [.airTx r.txfifo] ∨ l = [.lost] else l = []

/-- How many attempts an operation in flight may still make (R158): those left in its phase and the whole budget of each
later phase, which is `max_retries` for the join phase and 1 for the ack phase (R121, R122). -/
def Engine.attemptsLeft (e : Engine) : Nat :=
  match e.opstate with
  | .idle | .operationComplete => 0
  | .transmitting | .waitingResponse =>
    match e.op with
    | .none => 0
    | .pairingDiscover _ => (e.maxRetries.toNat - e.attempts.toNat) + e.maxRetries.toNat + 1
    | .pairingJoin _ _ => (e.maxRetries.toNat - e.attempts.toNat) + 1
    | .pairingAck _ _ | .setSpeed _ _ _ => e.maxRetries.toNat - e.attempts.toNat

/-- The invariant of the machine: R29 and R130 (a), (b), the payload facts of R18, R68 and R103, the budget of R122, no
operation without a link (R16, R140), the bound of R32, and the canonical form of the register space. -/
structure State.Inv (s : State) : Prop where
  params_wf : s.params.wf = true
  idle_iff_none : s.engine.opstate = .idle ↔ s.engine.op = .none
  link_ready : s.engine.op ≠ .none → s.engine.link = .ready
  budget_pos : s.engine.op ≠ .none → 1 ≤ s.engine.maxRetries.toNat
  attempts_below : s.engine.opstate = .transmitting ∨ s.engine.opstate = .waitingResponse →
    s.engine.attempts.toNat < s.engine.maxRetries.toNat
  attempts_le : s.engine.attempts.toNat ≤ s.engine.maxRetries.toNat
  discover_id : ∀ ownId, s.engine.op = .pairingDiscover ownId → 1 ≤ ownId.toNat ∧ ownId.toNat ≤ 254
  join_id : ∀ ownId pr, s.engine.op = .pairingJoin ownId pr → pr.ownId = ownId ∧ 1 ≤ ownId.toNat ∧ ownId.toNat ≤ 254
  ack_id : ∀ ownId pr, s.engine.op = .pairingAck ownId pr → pr.ownId = ownId ∧ 1 ≤ ownId.toNat ∧ ownId.toNat ≤ 254
  ack_budget : ∀ ownId pr, s.engine.op = .pairingAck ownId pr → s.engine.maxRetries = 1
  rxfifo_le : s.radio.rxfifo.length ≤ s.params.rxfifoCap
  cfg_wf : Memory.wf s.radio.cfg = true

end Sys2Proof.Machine
end

