-- ==== Sys2Proof/Certificates/Slice0/Obligations.lean ====
section
/-! DEFINITION. The statements about the RF core, one for each rule or group of rules of spec/ they formalise. Each holds
for every draw and every step the radio agent takes, in any state that meets its premises. -/

open Sys2Proof Sys2Proof.Machine

/-! ### Host commands -/

/-- R140, R138, R142: a refused command sets the mark, answers its reason and does nothing else. Refused are: every host
command but `INIT` while the link is not ready, the reserved opcodes among them; `INIT` after a fault or during an
operation; and every reserved opcode in READY. The model's reading (log entry 6): a refusal is a next state with the mark
set, and a reserved opcode before `INIT` answers `LinkNotReady`. -/
def Obligations.RefusedCommandsOnlySetTheMark : Prop :=
  ∀ s : State,
    (∀ i : Instr, i.isHostCommand = true → i ≠ .init → s.engine.link ≠ .ready →
      exec i s = .next { s with refusedMark := true, outcome := .refused .linkNotReady }) ∧
    (s.engine.link = .fault → exec .init s = .next { s with refusedMark := true, outcome := .refused .setupFaulted }) ∧
    (s.engine.link = .ready → s.engine.opstate ≠ .idle →
      exec .init s = .next { s with refusedMark := true, outcome := .refused .initDuringOperation }) ∧
    (s.engine.link = .ready → ∀ op,
      exec (.reservedHc op) s = .next { s with refusedMark := true, outcome := .refused .reservedOpcode })

/-- R129, R134: a start command while an operation is in flight changes nothing: no register, no draw, no bus
transaction, no history; only the step's outcome is Busy. -/
def Obligations.BusyStartChangesNothing : Prop :=
  ∀ s : State, s.engine.link = .ready → s.engine.opstate ≠ .idle →
    exec .startPairing s = .next { s with outcome := .busy } ∧
    ∀ pr speed timer, exec (.startSetSpeed pr speed timer) s = .next { s with outcome := .busy }

/-- R110 with R94, R105–R108: `START_PAIRING` in READY / Idle draws an id in [1, 254], arms the discovery, programs the
link filter twice and sends the discovery frame; nothing else of the engine and of the chip's registers changes. Where
the radio agent keeps still, the chip is left in TX with the frame in its FIFO. -/
def Obligations.StartPairingSendsDiscovery : Prop :=
  ∀ s : State, s.engine.link = .ready → s.engine.opstate = .idle →
    ∃ (ownId : Byte) (f : Frame) (t : State), exec .startPairing s = .next t ∧
      1 ≤ ownId.toNat ∧ ownId.toNat ≤ 254 ∧
      (∀ k rest, s.draws.ownId = k :: rest → ownId.toNat = k.val + 1) ∧
      f = #v[s.params.discAddrType, s.params.discAddrId, s.params.discTypeTag, ownId, s.params.ttl,
        s.params.codeJoinAckReq, 4, s.params.discPayload[0], s.params.discPayload[1], s.params.discPayload[2],
        s.params.discPayload[3], 0, 0, 0, 0, 0] ∧
      t.engine = { s.engine with
          opstate := .transmitting, op := .pairingDiscover ownId, attempts := 0,
          maxRetries := s.params.nCmd, timeoutMs := s.params.tCmd, success := false, txBuf := f } ∧
      t.radio.addr = s.params.linkNetworkId.extractLsb' 0 8 ∧ t.radio.pktlen = s.radio.pktlen ∧
      (∀ a, Memory.read t.radio.cfg a = Memory.read s.radio.cfg a) ∧
      s.radio.rxfifo <+: t.radio.rxfifo ∧
      busTrace t.history =
        busTrace s.history ++ addressEvents s.params s.params.linkNetworkId ++ sendEvents s.params f ∧
      causeTrace t.history = causeTrace s.history ∧ s.sameContext t ∧ t.outcome = .ok [] ∧
      (s.quiet 8 → t.radio.mode = .tx ∧ t.radio.txfifo = f.toList ∧ t.radio.rxfifo = s.radio.rxfifo)

/-- R111 with R97, R106–R108: `START_SET_SPEED` in READY / Idle arms the operation, programs the record's filter twice
and sends the set-speed frame (timer 0) or the set-timer frame (timer > 0), whatever the operand bytes are. -/
def Obligations.StartSetSpeedSendsCommand : Prop :=
  ∀ (s : State) (pr : PairingRecord) (speed timer : Byte), s.engine.link = .ready → s.engine.opstate = .idle →
    ∃ (f : Frame) (t : State), exec (.startSetSpeed pr speed timer) s = .next t ∧
      f = (if timer = 0 then
          #v[pr.mainType, pr.mainId, s.params.remoteType, pr.ownId, s.params.ttl, s.params.codeSetSpeed, 1, speed,
            0, 0, 0, 0, 0, 0, 0, 0]
        else
          #v[pr.mainType, pr.mainId, s.params.remoteType, pr.ownId, s.params.ttl, s.params.codeSetTimer, 2, speed,
            timer, 0, 0, 0, 0, 0, 0, 0]) ∧
      t.engine = { s.engine with
          opstate := .transmitting, op := .setSpeed pr speed timer, attempts := 0,
          maxRetries := s.params.nCmd, timeoutMs := s.params.tCmd, success := false, txBuf := f } ∧
      t.radio.addr = pr.networkId.extractLsb' 0 8 ∧ t.radio.pktlen = s.radio.pktlen ∧
      (∀ a, Memory.read t.radio.cfg a = Memory.read s.radio.cfg a) ∧
      s.radio.rxfifo <+: t.radio.rxfifo ∧
      busTrace t.history = busTrace s.history ++ addressEvents s.params pr.networkId ++ sendEvents s.params f ∧
      causeTrace t.history = causeTrace s.history ∧ s.sameContext t ∧ t.outcome = .ok [] ∧
      (s.quiet 8 → t.radio.mode = .tx ∧ t.radio.txfifo = f.toList ∧ t.radio.rxfifo = s.radio.rxfifo)

/-- R113, R116: `PROCESS` in Idle and in OperationComplete writes no register, issues no transaction and adds no
history; the clock sample it takes has no effect. -/
def Obligations.ProcessRestsOutsideAnAttempt : Prop :=
  ∀ s : State, s.engine.link = .ready → s.engine.opstate = .idle ∨ s.engine.opstate = .operationComplete →
    ∃ t, exec .process s = .next t ∧ t = { s with outcome := .ok [], draws := t.draws }

/-- R114, R83, R89: `PROCESS` in Transmitting goes to WaitingResponse, records the clock sample as the attempt start and
strobes receive; no other engine register changes. While the radio agent keeps still, a frame that has not yet gone out
is sent or lost by the strobe (`pendingResolved`), and the chip is left in RX. -/
def Obligations.ProcessTransmittingStartsTheWait : Prop :=
  ∀ s : State, s.engine.link = .ready → s.engine.opstate = .transmitting →
    ∃ (now : U32) (t : State), exec .process s = .next t ∧
      (∀ c rest, s.draws.clock = c :: rest → now = c) ∧
      t.engine = { s.engine with opstate := .waitingResponse, attemptStart := now } ∧
      s.sameChipRegs t ∧ s.radio.rxfifo <+: t.radio.rxfifo ∧
      busTrace t.history = busTrace s.history ++ [.strobe .rx, .delay s.params.settleUs] ∧
      causeTrace t.history = causeTrace s.history ∧ s.sameContext t ∧ t.outcome = .ok [] ∧
      (s.quiet 2 → ∃ l, pendingResolved s.radio l ∧
        t.history = s.history ++ .bus (.strobe .rx) :: l ++ [.bus (.delay s.params.settleUs)] ∧
        t.radio = { s.radio with mode := .rx, txfifo := if l = [] then s.radio.txfifo else [] })

/-- R115, first part of "else nothing": a poll that finds no frame before the timeout only reads the byte count, and
behind a shut gate (R87) not even that; the content of `rx_buf` is open afterwards (R25, log entry 12). -/
def Obligations.PollWithoutFrameWaits : Prop :=
  ∀ (s : State) (now : U32) (rest : List U32), s.engine.link = .ready → s.engine.opstate = .waitingResponse →
    s.NoFrame ∨ s.GateShut → s.draws.clock = now :: rest →
    (now - s.engine.attemptStart).toNat < s.engine.timeoutMs.toNat →
    ∃ t, exec .process s = .next t ∧
      t.engine = { s.engine with rxBuf := t.engine.rxBuf } ∧ t.radio = s.radio ∧
      (∃ poll, s.failedPoll poll ∧ t.history = s.history ++ poll.map .bus) ∧
      s.sameContext t ∧ t.outcome = .ok []

/-- R117, R115, R135: a timeout with budget left counts the attempt, records NoResponse and sends the same buffer again;
the filter is not programmed again and the frame is not rebuilt. The poll before it found no frame, or the gate shut. -/
def Obligations.TimeoutWithBudgetResends : Prop :=
  ∀ (s : State) (now : U32) (rest : List U32), s.engine.link = .ready → s.engine.opstate = .waitingResponse →
    s.NoFrame ∨ s.GateShut → s.draws.clock = now :: rest →
    s.engine.timeoutMs.toNat ≤ (now - s.engine.attemptStart).toNat →
    (s.engine.attempts + 1).toNat < s.engine.maxRetries.toNat →
    ∃ t, exec .process s = .next t ∧
      t.engine = { s.engine with
          opstate := .transmitting, attempts := s.engine.attempts + 1,
          rxBuf := t.engine.rxBuf } ∧
      s.sameChipRegs t ∧ s.radio.rxfifo <+: t.radio.rxfifo ∧
      (∃ poll, s.failedPoll poll ∧
        busTrace t.history = busTrace s.history ++ poll ++ sendEvents s.params s.engine.txBuf) ∧
      causeTrace t.history = causeTrace s.history ++ [.noResponse] ∧ s.sameContext t ∧ t.outcome = .ok []

/-- R117, R137, R143: a timeout with no budget left fails the operation: RetriesExhausted, OperationComplete, success
false, the operation kept, the radio idle. The poll before it found no frame, or the gate shut. -/
def Obligations.TimeoutWithoutBudgetFails : Prop :=
  ∀ (s : State) (now : U32) (rest : List U32), s.engine.link = .ready → s.engine.opstate = .waitingResponse →
    s.NoFrame ∨ s.GateShut → s.draws.clock = now :: rest →
    s.engine.timeoutMs.toNat ≤ (now - s.engine.attemptStart).toNat →
    s.engine.maxRetries.toNat ≤ (s.engine.attempts + 1).toNat →
    ∃ t, exec .process s = .next t ∧
      t.engine = { s.engine with
          opstate := .operationComplete, success := false,
          attempts := s.engine.attempts + 1, rxBuf := t.engine.rxBuf } ∧
      t.radio.mode = .idle ∧ s.sameChipRegs t ∧ s.radio.rxfifo <+: t.radio.rxfifo ∧
      (∃ poll, s.failedPoll poll ∧
        busTrace t.history = busTrace s.history ++ poll ++ [.strobe .idle, .delay s.params.settleUs]) ∧
      causeTrace t.history = causeTrace s.history ++ [.retriesExhausted] ∧ s.sameContext t ∧ t.outcome = .ok []

/-- R119, R123, R109, R142: in SetSpeed and in PairingAck any received frame completes the operation with success,
whatever its bytes and the clock say; the operation and the attempt count are kept. -/
def Obligations.AnyFrameCompletesSetSpeedAndAck : Prop :=
  ∀ s : State, s.engine.link = .ready → s.engine.opstate = .waitingResponse → s.FrameWaiting →
    ((∃ pr speed timer, s.engine.op = .setSpeed pr speed timer) ∨ ∃ ownId pr, s.engine.op = .pairingAck ownId pr) →
    ∃ t, exec .process s = .next t ∧
      t.engine = { s.engine with opstate := .operationComplete, success := true, rxBuf := t.engine.rxBuf } ∧
      t.engine.rxBuf.toList = s.radio.rxfifo.take 16 ∧
      (s.params.idleOnResponseComplete = true → t.radio.mode = .idle) ∧ s.sameChipRegs t ∧
      (∃ b, 16 ≤ s.params.rxCount b ∧ busTrace t.history = busTrace s.history ++
        [.readStatus s.params.regRxbytes b, .burstRead s.params.regRxfifo (s.radio.rxfifo.take 16), .strobe .frx] ++
        (if s.params.idleOnResponseComplete then [.strobe .idle, .delay s.params.settleUs] else [])) ∧
      causeTrace t.history = causeTrace s.history ∧ s.sameContext t ∧ t.outcome = .ok []

/-- R120, R136, R142: a discovery response whose byte 5 is not `CODE_JOIN_OPEN` fails the pairing at once, with retries
left or not; no pairing record is produced. -/
def Obligations.DiscoveryMismatchFails : Prop :=
  ∀ (s : State) (ownId : Byte), s.engine.link = .ready → s.engine.opstate = .waitingResponse → s.FrameWaiting →
    s.engine.op = .pairingDiscover ownId → s.radio.rxfifo[5]? ≠ some s.params.codeJoinOpen →
    ∃ t, exec .process s = .next t ∧
      t.engine = { s.engine with opstate := .operationComplete, success := false, rxBuf := t.engine.rxBuf } ∧
      t.engine.rxBuf.toList = s.radio.rxfifo.take 16 ∧ pairingResult t.engine = none ∧
      (s.params.idleOnResponseComplete = true → t.radio.mode = .idle) ∧ s.sameChipRegs t ∧
      (∃ b, 16 ≤ s.params.rxCount b ∧ busTrace t.history = busTrace s.history ++
        [.readStatus s.params.regRxbytes b, .burstRead s.params.regRxfifo (s.radio.rxfifo.take 16), .strobe .frx] ++
        (if s.params.idleOnResponseComplete then [.strobe .idle, .delay s.params.settleUs] else [])) ∧
      causeTrace t.history = causeTrace s.history ++ [.protocolMismatch] ∧ s.sameContext t ∧ t.outcome = .ok []

/-- R121, R98, R103: a discovery response with `CODE_JOIN_OPEN` gives the record of bytes 2, 3 and 7–10 (little-endian)
and the own id, moves to the join phase with attempts 0, programs the learned network and sends the join request. -/
def Obligations.DiscoveryMatchEntersJoin : Prop :=
  ∀ (s : State) (ownId : Byte) (f : Frame) (more : List Byte),
    s.engine.link = .ready → s.engine.opstate = .waitingResponse → s.FrameWaiting →
    s.engine.op = .pairingDiscover ownId → s.radio.rxfifo = f.toList ++ more → f[5] = s.params.codeJoinOpen →
    ∃ (pr : PairingRecord) (j : Frame) (t : State), exec .process s = .next t ∧
      pr.networkId.toNat = f[7].toNat + 256 * f[8].toNat + 65536 * f[9].toNat + 16777216 * f[10].toNat ∧
      pr.mainType = f[2] ∧ pr.mainId = f[3] ∧ pr.ownId = ownId ∧
      j = #v[f[2], f[3], s.params.remoteType, ownId, s.params.ttl, s.params.codeJoinRequest, 4,
        f[7], f[8], f[9], f[10], 0, 0, 0, 0, 0] ∧
      t.engine = { s.engine with
          opstate := .transmitting, op := .pairingJoin ownId pr, attempts := 0,
          txBuf := j, rxBuf := f } ∧
      t.radio.addr = f[7] ∧ t.radio.pktlen = s.radio.pktlen ∧
      (∀ a, Memory.read t.radio.cfg a = Memory.read s.radio.cfg a) ∧
      (∃ b, 16 ≤ s.params.rxCount b ∧ busTrace t.history = busTrace s.history ++
        [.readStatus s.params.regRxbytes b, .burstRead s.params.regRxfifo f.toList, .strobe .frx] ++
        addressEvents s.params pr.networkId ++ sendEvents s.params j) ∧
      causeTrace t.history = causeTrace s.history ∧ s.sameContext t ∧ t.outcome = .ok []

/-- R122: any frame in the join phase moves to the ack phase with attempts 0 and budget 1 and sends the acknowledgment
frame, which has no parameters; the filter is not programmed. -/
def Obligations.JoinResponseEntersAck : Prop :=
  ∀ (s : State) (ownId : Byte) (pr : PairingRecord),
    s.engine.link = .ready → s.engine.opstate = .waitingResponse → s.FrameWaiting →
    s.engine.op = .pairingJoin ownId pr →
    ∃ (k : Frame) (t : State), exec .process s = .next t ∧
      k = #v[pr.mainType, pr.mainId, s.params.remoteType, pr.ownId, s.params.ttl, s.params.codeAck, 0,
        0, 0, 0, 0, 0, 0, 0, 0, 0] ∧
      t.engine = { s.engine with
          opstate := .transmitting, op := .pairingAck ownId pr, attempts := 0, maxRetries := 1,
          txBuf := k, rxBuf := t.engine.rxBuf } ∧
      t.engine.rxBuf.toList = s.radio.rxfifo.take 16 ∧ s.sameChipRegs t ∧
      (∃ b, 16 ≤ s.params.rxCount b ∧ busTrace t.history = busTrace s.history ++
        [.readStatus s.params.regRxbytes b, .burstRead s.params.regRxfifo (s.radio.rxfifo.take 16), .strobe .frx] ++
        sendEvents s.params k) ∧
      causeTrace t.history = causeTrace s.history ∧ s.sameContext t ∧ t.outcome = .ok []

/-- R112 with R29: `PROCESS` always answers a next state: "there is never a fault". -/
def Obligations.ProcessNeverFaults : Prop :=
  ∀ s : State, s.Inv → ∃ t, exec .process s = .next t

/-- R124: `IS_OPERATION_COMPLETE` answers 1 in OperationComplete and 0 elsewhere, and writes nothing. -/
def Obligations.IsOperationCompleteReports : Prop :=
  ∀ s : State, s.engine.link = .ready →
    exec .isOperationComplete s =
      .next { s with outcome := .ok [if s.engine.opstate = .operationComplete then 1 else 0] }

/-- R125: `LAST_OPERATION_SUCCESSFUL` answers the outcome flag, and writes nothing. -/
def Obligations.LastOperationSuccessfulReports : Prop :=
  ∀ s : State, s.engine.link = .ready →
    exec .lastOperationSuccessful s = .next { s with outcome := .ok [if s.engine.success = true then 1 else 0] }

/-- R126, R27, R63, R64: `GET_PAIRING_RESULT` answers a present byte 1 and the record in PR format exactly when a
PairingAck completed with success, else the one byte 0; it writes nothing. -/
def Obligations.GetPairingResultReports : Prop :=
  ∀ s : State, s.engine.link = .ready →
    (∀ ownId pr, s.engine.opstate = .operationComplete → s.engine.success = true → s.engine.op = .pairingAck ownId pr →
      ∃ b0 b1 b2 b3 : Byte,
        pr.networkId.toNat = b0.toNat + 256 * b1.toNat + 65536 * b2.toNat + 16777216 * b3.toNat ∧
        exec .getPairingResult s =
          .next { s with outcome := .ok [1, b0, b1, b2, b3, pr.mainType, pr.mainId, pr.ownId] }) ∧
    ((s.engine.opstate ≠ .operationComplete ∨ s.engine.success = false ∨ ∀ ownId pr, s.engine.op ≠ .pairingAck ownId pr) →
      exec .getPairingResult s = .next { s with outcome := .ok [0] })

/-- R127, R144, R156: `RESET_OPERATION_STATE` gives Idle / None in every opstate, clears the operation's registers,
keeps `success`, both buffers, the chip's registers and the RX FIFO's bytes, and leaves the radio idle. While the radio
agent keeps still, a frame that has not yet gone out is sent or lost by the idle strobe (R89), and no other byte moves. -/
def Obligations.ResetReturnsToIdle : Prop :=
  ∀ s : State, s.engine.link = .ready →
    ∃ t, exec .resetOperationState s = .next t ∧
      t.engine = { s.engine with
          opstate := .idle, op := .none, attempts := 0, maxRetries := 0, timeoutMs := 0,
          attemptStart := 0 } ∧
      t.radio.mode = .idle ∧ s.sameChipRegs t ∧ s.radio.rxfifo <+: t.radio.rxfifo ∧
      (s.quiet 2 → ∃ l, pendingResolved s.radio l ∧
        t.history = s.history ++ .bus (.strobe .idle) :: l ++ [.bus (.delay s.params.settleUs)] ∧
        t.radio = { s.radio with mode := .idle, txfifo := if l = [] then s.radio.txfifo else [] }) ∧
      busTrace t.history = busTrace s.history ++ [.strobe .idle, .delay s.params.settleUs] ∧
      causeTrace t.history = causeTrace s.history ∧ s.sameContext t ∧ t.outcome = .ok []

/-- R127: the reset is idempotent: a second one right after the first adds the same two bus events and changes no
register of the engine or the radio. -/
def Obligations.ResetIsIdempotent : Prop :=
  ∀ s t : State, s.engine.link = .ready → exec .resetOperationState s = .next t →
    ∃ u, exec .resetOperationState t = .next u ∧ u.engine = t.engine ∧ u.radio = t.radio ∧
      u.history = t.history ++ [.bus (.strobe .idle), .bus (.delay s.params.settleUs)] ∧ u.outcome = t.outcome

/-- R128, R81, R155: `INIT`, where it is accepted, runs the four transactions and sets the link by the draw: READY, or
FAULT with the cause recorded and the outcome SetupFault; no other engine register changes, and the chip is idle with
empty FIFOs and packet length 16. -/
def Obligations.InitBringsUpTheLink : Prop :=
  ∀ s : State, s.params.wf = true → s.engine.link ≠ .fault → ¬(s.engine.link = .ready ∧ s.engine.opstate ≠ .idle) →
    ∃ (ok : Bool) (t : State), exec .init s = .next t ∧
      (∀ b rest, s.draws.initOk = b :: rest → ok = b) ∧
      t.engine = { s.engine with link := if ok then .ready else .fault } ∧
      t.radio.mode = .idle ∧ t.radio.txfifo = [] ∧ t.radio.rxfifo = [] ∧ t.radio.pktlen = 16 ∧
      busTrace t.history = busTrace s.history ++
        [.csPulse s.params.resetSequence, .strobe .res, .burstWrite s.params.cfgBase s.params.configTable,
          .writeReg s.params.regPktlen 16] ∧
      causeTrace t.history = causeTrace s.history ++ (if ok then [] else [.setupFault]) ∧
      s.sameContext t ∧ t.outcome = (if ok then .ok [] else .setupFault)

/-- R81, R77, R155, R34: after an accepted `INIT` every register the configuration table covers holds the table's
byte: the filter if the table covers it, and every configuration register but the packet length, which the command writes
last. For a table that passes register 255, that the numbers `CFG_BASE + k` do not wrap at 256 is the model's choice
(log entry 16). -/
def Obligations.InitWritesTheConfigTable : Prop :=
  ∀ (s t : State) (k : Nat), s.params.wf = true → s.engine.link ≠ .fault →
    ¬(s.engine.link = .ready ∧ s.engine.opstate ≠ .idle) → exec .init s = .next t →
    (hk : k < s.params.configTable.length) →
    (s.params.cfgBase.toNat + k = s.params.regAddr.toNat → t.radio.addr = s.params.configTable[k]) ∧
    (s.params.cfgBase.toNat + k ≠ s.params.regAddr.toNat → s.params.cfgBase.toNat + k ≠ s.params.regPktlen.toNat →
      Memory.read t.radio.cfg (s.params.cfgBase.toNat + k) = s.params.configTable[k])

/-! ### Driver micro-operations -/

/-- R82, R83, R84, R89: the three mode operations strobe and wait; no engine register, chip register or parameter
changes, and the bytes of the RX FIFO stay. Idle holds whatever the radio agent does. While it keeps still, receive and
transmit hold too, a frame still waiting in TX is sent or cut off by idle and receive between the strobe and the delay
(`pendingResolved`), and nothing else of the radio changes. -/
def Obligations.ModeOperationsStrobeAndSettle : Prop :=
  ∀ s : State,
    (∃ t, exec .setModeIdle s = .next t ∧ t.engine = s.engine ∧ t.radio.mode = .idle ∧ s.sameChipRegs t ∧
      s.radio.rxfifo <+: t.radio.rxfifo ∧
      (s.quiet 2 → ∃ l, pendingResolved s.radio l ∧
        t.history = s.history ++ .bus (.strobe .idle) :: l ++ [.bus (.delay s.params.settleUs)] ∧
        t.radio = { s.radio with mode := .idle, txfifo := if l = [] then s.radio.txfifo else [] }) ∧
      busTrace t.history = busTrace s.history ++ [.strobe .idle, .delay s.params.settleUs] ∧
      causeTrace t.history = causeTrace s.history ∧ s.sameContext t ∧ t.outcome = .done) ∧
    (∃ t, exec .setModeReceive s = .next t ∧ t.engine = s.engine ∧ s.sameChipRegs t ∧
      (t.radio.mode = .rx ∨ t.radio.mode = .idle) ∧ s.radio.rxfifo <+: t.radio.rxfifo ∧
      (s.quiet 2 → ∃ l, pendingResolved s.radio l ∧
        t.history = s.history ++ .bus (.strobe .rx) :: l ++ [.bus (.delay s.params.settleUs)] ∧
        t.radio = { s.radio with mode := .rx, txfifo := if l = [] then s.radio.txfifo else [] }) ∧
      busTrace t.history = busTrace s.history ++ [.strobe .rx, .delay s.params.settleUs] ∧
      causeTrace t.history = causeTrace s.history ∧ s.sameContext t ∧ t.outcome = .done) ∧
    (∃ t, exec .setModeTransmit s = .next t ∧ t.engine = s.engine ∧ s.sameChipRegs t ∧
      s.radio.rxfifo <+: t.radio.rxfifo ∧
      (s.quiet 2 → t.radio = { s.radio with mode := .tx } ∧
        t.history = s.history ++ [.bus (.strobe .tx), .bus (.delay s.params.settleUs)]) ∧
      busTrace t.history = busTrace s.history ++ [.strobe .tx, .delay s.params.settleUs] ∧
      causeTrace t.history = causeTrace s.history ∧ s.sameContext t ∧ t.outcome = .done)

/-- R85, R166: both setters write the one filter register with the low byte of the network id: the last one called
wins, and nothing else of the chip's registers and of the engine changes. -/
def Obligations.AddressSettersShareOneFilter : Prop :=
  ∀ (s : State) (nid : U32), ∀ i ∈ [Instr.setTxAddress nid, Instr.setRxAddress nid],
    ∃ t, exec i s = .next t ∧ t.engine = s.engine ∧ t.radio.addr.toNat = nid.toNat % 256 ∧
      t.radio.pktlen = s.radio.pktlen ∧ (∀ a, Memory.read t.radio.cfg a = Memory.read s.radio.cfg a) ∧
      s.radio.rxfifo <+: t.radio.rxfifo ∧
      busTrace t.history = busTrace s.history ++ [.writeReg s.params.regAddr (nid.extractLsb' 0 8)] ∧
      causeTrace t.history = causeTrace s.history ∧ s.sameContext t ∧ t.outcome = .done

/-- R86, R89: `write_tx_payload` forces idle, flushes the TX FIFO and loads exactly the frame, whatever was there and
whatever the radio agent does. While the agent keeps still, a frame that has not yet gone out is sent or lost by the idle
strobe (`pendingResolved`), and the rest of the radio stays. -/
def Obligations.WriteTxPayloadLoadsTheFrame : Prop :=
  ∀ (s : State) (f : Frame), ∃ t, exec (.writeTxPayload f) s = .next t ∧ t.engine = s.engine ∧
    t.radio.mode = .idle ∧ t.radio.txfifo = f.toList ∧ s.sameChipRegs t ∧ s.radio.rxfifo <+: t.radio.rxfifo ∧
    (s.quiet 4 → ∃ l, pendingResolved s.radio l ∧
      t.history = s.history ++ .bus (.strobe .idle) :: l ++ [.bus (.delay s.params.settleUs), .bus (.strobe .ftx),
        .bus (.burstWrite s.params.regTxfifo f.toList)] ∧
      t.radio = { s.radio with mode := .idle, txfifo := f.toList }) ∧
    busTrace t.history = busTrace s.history ++
      [.strobe .idle, .delay s.params.settleUs, .strobe .ftx, .burstWrite s.params.regTxfifo f.toList] ∧
    causeTrace t.history = causeTrace s.history ∧ s.sameContext t ∧ t.outcome = .done

/-- R87: `read_rx_payload` with a frame waiting answers true, copies the first 16 bytes out and flushes the RX FIFO. -/
def Obligations.ReadRxPayloadTakesOneFrame : Prop :=
  ∀ s : State, s.FrameWaiting → ∃ t, exec .readRxPayload s = .next t ∧ t.outcome = .flag true ∧
    t.engine = { s.engine with rxBuf := t.engine.rxBuf } ∧ t.engine.rxBuf.toList = s.radio.rxfifo.take 16 ∧
    t.radio.rxfifo = [] ∧ s.sameChipRegs t ∧
    (∃ b, 16 ≤ s.params.rxCount b ∧ busTrace t.history = busTrace s.history ++
      [.readStatus s.params.regRxbytes b, .burstRead s.params.regRxfifo (s.radio.rxfifo.take 16), .strobe .frx]) ∧
    causeTrace t.history = causeTrace s.history ∧ s.sameContext t

/-- R87, R164: `read_rx_payload` that finds fewer than 16 bytes answers false at once and flushes nothing, so partial
bytes stay; with the gate shut it does not even read the count. -/
def Obligations.ReadRxPayloadFailsWithoutAFrame : Prop :=
  ∀ s : State,
    (s.NoFrame → ∃ t, exec .readRxPayload s = .next t ∧ t.outcome = .flag false ∧
      t.engine = { s.engine with rxBuf := t.engine.rxBuf } ∧ t.radio = s.radio ∧
      (∃ b, s.params.rxCount b = s.radio.rxfifo.length ∧
        t.history = s.history ++ [.bus (.readStatus s.params.regRxbytes b)]) ∧ s.sameContext t) ∧
    (s.params.rxGate = true → (∃ rest, s.draws.ready = false :: rest) →
      ∃ t, exec .readRxPayload s = .next t ∧ t.outcome = .flag false ∧
        t.engine = { s.engine with rxBuf := t.engine.rxBuf } ∧ t.radio = s.radio ∧ t.history = s.history ∧
        s.sameContext t)

/-- R91: no frame is read twice: after a read that answered true, the next one answers false if no `air_rx` comes in
between, whatever other steps the radio agent takes. -/
def Obligations.NoFrameIsReadTwice : Prop :=
  ∀ (s t : State) (acts : List RadioAct) (more : List (List RadioAct)), s.params.wf = true →
    exec .readRxPayload s = .next t → t.outcome = .flag true →
    t.draws.gaps = acts :: more → (∀ bytes, .airRx bytes ∉ acts) →
    ∃ u, exec .readRxPayload t = .next u ∧ u.outcome = .flag false ∧ u.radio.rxfifo = []

/-- R81, R89: `initialize` alone, from any state: the four transactions, the chip idle with empty FIFOs and packet
length 16, the answer the draw; no engine register changes. -/
def Obligations.InitializeConfiguresTheChip : Prop :=
  ∀ s : State, s.params.wf = true → ∃ (ok : Bool) (t : State), exec .initializeRadio s = .next t ∧
    t.outcome = .flag ok ∧ (∀ b rest, s.draws.initOk = b :: rest → ok = b) ∧ t.engine = s.engine ∧
    t.radio.mode = .idle ∧ t.radio.txfifo = [] ∧ t.radio.rxfifo = [] ∧ t.radio.pktlen = 16 ∧
    busTrace t.history = busTrace s.history ++
      [.csPulse s.params.resetSequence, .strobe .res, .burstWrite s.params.cfgBase s.params.configTable,
        .writeReg s.params.regPktlen 16] ∧
    causeTrace t.history = causeTrace s.history ∧ s.sameContext t

/-! ### Bus transactions -/

/-- R75, R89: every strobe, with the radio agent still: the transaction is recorded, and the chip's table of effects
holds. A frame waiting in TX is sent or cut off by the idle and receive strobes and by no other. -/
def Obligations.StrobeEffects : Prop :=
  ∀ (s : State) (st : Strobe), s.quiet 1 → ∃ (l : List Event) (t : State), exec (.strobe st) s = .next t ∧
    t.engine = s.engine ∧ t.history = s.history ++ .bus (.strobe st) :: l ∧ s.sameContext t ∧ t.outcome = .done ∧
    match st with
    | .res => l = [] ∧ t.radio.mode = .idle ∧ t.radio.txfifo = [] ∧ t.radio.rxfifo = []
    | .idle => pendingResolved s.radio l ∧ t.radio = { s.radio with mode := .idle, txfifo := t.radio.txfifo } ∧
        t.radio.txfifo = (if l = [] then s.radio.txfifo else [])
    | .rx => pendingResolved s.radio l ∧ t.radio = { s.radio with mode := .rx, txfifo := t.radio.txfifo } ∧
        t.radio.txfifo = (if l = [] then s.radio.txfifo else [])
    | .tx => l = [] ∧ t.radio = { s.radio with mode := .tx }
    | .ftx => l = [] ∧ t.radio = { s.radio with txfifo := [] }
    | .frx => l = [] ∧ t.radio = { s.radio with rxfifo := [] }

/-- R76: `WriteReg` writes the one register its address names: the filter, the packet length, or a configuration
register; every other register keeps its byte. -/
def Obligations.WriteRegWritesOneRegister : Prop :=
  ∀ (s : State) (a v : Byte), Memory.wf s.radio.cfg = true → ∃ t, exec (.writeReg a v) s = .next t ∧
    t.engine = s.engine ∧ s.sameContext t ∧ t.outcome = .done ∧
    busTrace t.history = busTrace s.history ++ [.writeReg a v] ∧ causeTrace t.history = causeTrace s.history ∧
    t.radio.addr = (if a = s.params.regAddr then v else s.radio.addr) ∧
    t.radio.pktlen = (if a ≠ s.params.regAddr ∧ a = s.params.regPktlen then v else s.radio.pktlen) ∧
    (∀ b : Nat, Memory.read t.radio.cfg b =
      if a ≠ s.params.regAddr ∧ a ≠ s.params.regPktlen ∧ b = a.toNat then v else Memory.read s.radio.cfg b) ∧
    (s.quiet 1 → t.radio.mode = s.radio.mode ∧ t.radio.txfifo = s.radio.txfifo ∧ t.radio.rxfifo = s.radio.rxfifo)

/-- R77: a burst to the TX FIFO appends the bytes in order and touches no register; a burst to any other address fills
the consecutive registers from it and touches no register outside them, and the FIFOs not at all. The model's choices:
the append has no bound (log entry 17), and register numbers do not wrap at 256 (log entry 16). -/
def Obligations.BurstWriteFillsFifoOrRegisters : Prop :=
  ∀ (s : State) (a : Byte) (bytes : List Byte), Memory.wf s.radio.cfg = true →
    ∃ t, exec (.burstWrite a bytes) s = .next t ∧ t.engine = s.engine ∧ s.sameContext t ∧ t.outcome = .done ∧
      busTrace t.history = busTrace s.history ++ [.burstWrite a bytes] ∧
      causeTrace t.history = causeTrace s.history ∧
      (a = s.params.regTxfifo → s.sameChipRegs t ∧
        (s.quiet 1 → t.radio.txfifo = s.radio.txfifo ++ bytes ∧ t.radio.rxfifo = s.radio.rxfifo)) ∧
      (a ≠ s.params.regTxfifo →
        (s.quiet 1 → t.radio.mode = s.radio.mode ∧ t.radio.txfifo = s.radio.txfifo ∧
          t.radio.rxfifo = s.radio.rxfifo) ∧
        (∀ b : Nat, b < a.toNat ∨ a.toNat + bytes.length ≤ b →
          Memory.read t.radio.cfg b = Memory.read s.radio.cfg b) ∧
        (s.params.regAddr.toNat < a.toNat ∨ a.toNat + bytes.length ≤ s.params.regAddr.toNat →
          t.radio.addr = s.radio.addr) ∧
        (s.params.regPktlen.toNat < a.toNat ∨ a.toNat + bytes.length ≤ s.params.regPktlen.toNat →
          t.radio.pktlen = s.radio.pktlen) ∧
        ∀ (k : Nat) (hk : k < bytes.length),
          (a.toNat + k = s.params.regAddr.toNat → t.radio.addr = bytes[k]) ∧
          (a.toNat + k ≠ s.params.regAddr.toNat → a.toNat + k = s.params.regPktlen.toNat →
            t.radio.pktlen = bytes[k]) ∧
          (a.toNat + k ≠ s.params.regAddr.toNat → a.toNat + k ≠ s.params.regPktlen.toNat →
            Memory.read t.radio.cfg (a.toNat + k) = bytes[k]))

/-- R78, R41: `ReadStatus` answers a byte that shows the RX FIFO's count and changes the history only. That it does so
at every register address, not at `REG_RXBYTES` alone, is the model's choice (log entry 13). -/
def Obligations.ReadStatusShowsTheCount : Prop :=
  ∀ (s : State) (a : Byte), s.params.wf = true → s.radio.rxfifo.length ≤ s.params.rxfifoCap → s.quiet 1 →
    ∃ (b : Byte) (t : State), exec (.readStatus a) s = .next t ∧ t.outcome = .status b ∧
      s.params.rxCount b = s.radio.rxfifo.length ∧ t.engine = s.engine ∧ t.radio = s.radio ∧
      t.history = s.history ++ [.bus (.readStatus a b)] ∧ s.sameContext t

/-- R79: `BurstRead` of n bytes answers the first n bytes of the RX FIFO in order and removes them; with fewer bytes in
the FIFO it is the fault Unmodelled. That it does so at every register address, not at `REG_RXFIFO` alone, is the model's
choice (log entry 13). -/
def Obligations.BurstReadPopsOrFaults : Prop :=
  ∀ (s : State) (a : Byte) (n : Nat), s.quiet 1 →
    (n ≤ s.radio.rxfifo.length → ∃ t, exec (.burstRead a n) s = .next t ∧
      t.outcome = .bytes (s.radio.rxfifo.take n) ∧ t.engine = s.engine ∧
      t.radio = { s.radio with rxfifo := s.radio.rxfifo.drop n } ∧
      t.history = s.history ++ [.bus (.burstRead a (s.radio.rxfifo.take n))] ∧ s.sameContext t) ∧
    (s.radio.rxfifo.length < n → exec (.burstRead a n) s = .fault .burstReadPastFifo)

/-- R80, R51: `CsPulse` and `Delay` are events with no effect on the engine and on the chip. -/
def Obligations.PulseAndDelayAreEventsOnly : Prop :=
  ∀ (s : State) (pattern : List CsItem) (us : U32),
    (∃ t, exec (.csPulse pattern) s = .next t ∧ t.engine = s.engine ∧ s.sameChipRegs t ∧ s.sameContext t ∧
      busTrace t.history = busTrace s.history ++ [.csPulse pattern] ∧ causeTrace t.history = causeTrace s.history ∧
      t.outcome = .done ∧ (s.quiet 1 → t.radio = s.radio ∧ t.history = s.history ++ [.bus (.csPulse pattern)])) ∧
    (∃ t, exec (.delay us) s = .next t ∧ t.engine = s.engine ∧ s.sameChipRegs t ∧ s.sameContext t ∧
      busTrace t.history = busTrace s.history ++ [.delay us] ∧ causeTrace t.history = causeTrace s.history ∧
      t.outcome = .done ∧ (s.quiet 1 → t.radio = s.radio ∧ t.history = s.history ++ [.bus (.delay us)]))

/-! ### Frames -/

/-- R93–R97, R56, R59: the five frames the block sends, byte for byte, for every operand; building one writes nothing.
The operands are those that stand in the frame (log entry 19). A discovery with own id 0 or 255 (R94) and a set-timer
frame with timer 0 (R97) are no frames the block sends: `wellFormed` refuses them and no word decodes to them, so for
those operands the clauses speak of the meaning alone. -/
def Obligations.SentFramesByteForByte : Prop :=
  ∀ (s : State) (pr : PairingRecord) (mt mi own speed timer : Byte),
    exec (.discovery own) s = .next { s with
        outcome := .frame
          #v[s.params.discAddrType, s.params.discAddrId, s.params.discTypeTag, own, s.params.ttl, s.params.codeJoinAckReq,
          4, s.params.discPayload[0], s.params.discPayload[1], s.params.discPayload[2], s.params.discPayload[3],
          0, 0, 0, 0, 0] } ∧
    (∃ b0 b1 b2 b3 : Byte,
      pr.networkId.toNat = b0.toNat + 256 * b1.toNat + 65536 * b2.toNat + 16777216 * b3.toNat ∧
      exec (.joinRequest pr) s = .next { s with
          outcome := .frame
            #v[pr.mainType, pr.mainId, s.params.remoteType, pr.ownId, s.params.ttl, s.params.codeJoinRequest, 4,
            b0, b1, b2, b3, 0, 0, 0, 0, 0] }) ∧
    exec (.ack mt mi own) s = .next { s with
        outcome := .frame
          #v[mt, mi, s.params.remoteType, own, s.params.ttl, s.params.codeAck, 0, 0, 0, 0, 0, 0, 0, 0, 0, 0] } ∧
    exec (.setSpeed mt mi own speed) s = .next { s with
        outcome := .frame
          #v[mt, mi, s.params.remoteType, own, s.params.ttl, s.params.codeSetSpeed, 1, speed, 0, 0, 0, 0, 0, 0, 0, 0] } ∧
    exec (.setTimer mt mi own speed timer) s = .next { s with
        outcome := .frame
          #v[mt, mi, s.params.remoteType, own, s.params.ttl, s.params.codeSetTimer, 2, speed, timer,
          0, 0, 0, 0, 0, 0, 0] }

/-- R98, R99, R69: a received frame is classified by the live operation: accepted unread in SetSpeed, PairingJoin and
PairingAck; in PairingDiscover a mismatch unless byte 5 is `CODE_JOIN_OPEN`, else the record of bytes 2, 3 and 7–10.
With no operation live the case "cannot occur": the model stops (log entry 20). -/
def Obligations.ReceivedFramesAreClassified : Prop :=
  ∀ (s : State) (f : Frame), ∀ i ∈ [Instr.joinOpen f, Instr.anyResponse f],
    ((∃ pr speed timer, s.engine.op = .setSpeed pr speed timer) ∨ (∃ own pr, s.engine.op = .pairingJoin own pr) ∨
      (∃ own pr, s.engine.op = .pairingAck own pr) → exec i s = .next { s with outcome := .classified .accept }) ∧
    (∀ own, s.engine.op = .pairingDiscover own →
      (f[5] ≠ s.params.codeJoinOpen → exec i s = .next { s with outcome := .classified .mismatch }) ∧
      (f[5] = s.params.codeJoinOpen → ∃ pr : PairingRecord,
        pr.networkId.toNat = f[7].toNat + 256 * f[8].toNat + 65536 * f[9].toNat + 16777216 * f[10].toNat ∧
        pr.mainType = f[2] ∧ pr.mainId = f[3] ∧ pr.ownId = own ∧
        exec i s = .next { s with outcome := .classified (.openMatch pr) })) ∧
    (s.engine.op = .none → exec i s = .fault .noLiveOperation)

/-! ### The step -/

/-- When the word at the head of the inputs decodes to an instruction, the step runs that instruction, on the state with
the word taken from the inputs (host command bytes after the command stay as the next word). The queue of inputs is the
model's (log entry 5). -/
def Obligations.StepRunsTheDecodedInstruction : Prop :=
  ∀ (s : State) (fmt : Format) (bs left : List Byte) (rest : List Input) (i : Instr),
    s.inputs = .word fmt bs :: rest → decode s.params fmt bs = .ok (i, left) →
    i.wellFormed s.params = true ∧
    step s = exec i { s with inputs := if left = [] then rest else .word fmt left :: rest }

/-- R9, R10, R12, R88: with no input to take, and when the input is a step of the radio agent, only the radio moves: no
engine register, chip register or parameter changes and no bus transaction is issued. -/
def Obligations.OnlyTheRadioMovesBetweenCommands : Prop :=
  ∀ (s : State) (a : RadioAct) (rest : List Input),
    (s.inputs = [] → ∃ t, step s = .next t ∧ t.engine = s.engine ∧ s.sameChipRegs t ∧ s.sameContext t ∧
      t.outcome = s.outcome ∧ busTrace t.history = busTrace s.history ∧ causeTrace t.history = causeTrace s.history) ∧
    (s.inputs = .air a :: rest → ∃ t, step s = .next t ∧ t.engine = s.engine ∧ s.sameChipRegs t ∧
      t.params = s.params ∧ t.refusedMark = s.refusedMark ∧ t.inputs = rest ∧ t.draws = s.draws ∧
      busTrace t.history = busTrace s.history ∧ causeTrace t.history = causeTrace s.history)

/-- R88, R41, R90: the three steps of the radio agent: when each is enabled, what it does, and that it does nothing
where it is not enabled (that such a step is skipped is the model's: log entry 23). -/
def Obligations.RadioAgentSteps : Prop :=
  ∀ (s : State) (rest : List Input),
    (∀ toRx, s.inputs = .air (.airTx toRx) :: rest → s.radio.mode = .tx → s.radio.txfifo ≠ [] →
      step s = .next { s with
        inputs := rest, history := s.history ++ [.airTx s.radio.txfifo],
        radio := { s.radio with txfifo := [], mode := if toRx then .rx else .idle } }) ∧
    (∀ bytes, s.inputs = .air (.airRx bytes) :: rest → s.radio.mode = .rx → bytes ≠ [] →
      step s = .next { s with
        inputs := rest, history := s.history ++ [.airRx bytes],
        radio := { s.radio with
          rxfifo := s.radio.rxfifo ++ bytes.take (s.params.rxfifoCap - s.radio.rxfifo.length) } }) ∧
    (s.inputs = .air .rxOff :: rest → s.radio.mode = .rx →
      step s = .next { s with inputs := rest, radio := { s.radio with mode := .idle } }) ∧
    (∀ a, s.inputs = .air a :: rest →
      (match a with
        | .airTx _ => s.radio.mode ≠ .tx ∨ s.radio.txfifo = []
        | .airRx bytes => s.radio.mode ≠ .rx ∨ bytes = []
        | .rxOff => s.radio.mode ≠ .rx) →
      step s = .next { s with inputs := rest })

/-! ### Encodings -/

/-- R61–R67, R94–R99: for every well-formed instruction, decoding its encoding gives it back with nothing left over.
Where the instruction is a frame the block sends, the five codes must be pairwise distinct, which no rule promises. The
byte forms of MU and BT operands are the model's (log entry 18). -/
def Obligations.DecodeEncodeRoundTrip : Prop :=
  ∀ (p : Params) (i : Instr), p.wf = true → i.wellFormed p = true →
    ((encode p i).1 = .frameSent → p.sentCodesDistinct = true) →
    decode p (encode p i).1 (encode p i).2 = .ok (i, [])

/-- R61, R62, R67, R70: the host command bytes a decoded command stands for are the only ones: what the decoder takes is
the encoding, and the rest is what it leaves. That a reserved opcode takes one byte is the model's
choice (log entry 30). -/
def Obligations.HostBytesHaveOneReading : Prop :=
  ∀ (p : Params) (bs left : List Byte) (i : Instr), decode p .hc bs = .ok (i, left) →
    i.isHostCommand = true ∧ encode p i = (.hc, (encode p i).2) ∧ bs = (encode p i).2 ++ left

/-- R61, R67: host opcodes 0x01–0x08 are the eight commands and every other opcode is the reserved row. That the
bytes after a reserved opcode are left for the next command is the model's choice (log entry 30). -/
def Obligations.ReservedHostOpcodes : Prop :=
  ∀ (p : Params) (op : Byte) (rest : List Byte),
    (decode p .hc (op :: rest) = .ok (.reservedHc op, rest) ↔ op.toNat = 0 ∨ 9 ≤ op.toNat)

/-- Words written out from the encodings of R61–R66 and the frames of 95_test_vectors.md, with the instructions they
stand for, under the test configuration TC with the general-knowledge strobe numbers (log entry 2). The byte forms of
the MU and BT words are the model's (log entry 18). -/
def Obligations.SampleWordsDecode : Prop :=
  decode Params.tc .hc [0x01] = .ok (.init, []) ∧
  decode Params.tc .hc [0x03, 0x01, 0x02, 0x03, 0x04, 0x01, 0x9A, 0x42, 0x02, 0x0A, 0x04] =
    .ok (.startSetSpeed { networkId := 0x04030201, mainType := 0x01, mainId := 0x9A, ownId := 0x42 } 0x02 0x0A,
      [0x04]) ∧
  decode Params.tc .hc [0x09] = .ok (.reservedHc 0x09, []) ∧
  decode Params.tc .mu [0x25, 0x01, 0x02, 0x03, 0x04] = .ok (.setTxAddress 0x04030201, []) ∧
  decode Params.tc .bt [0, 0x3B] = .ok (.strobe .ftx, []) ∧
  decode Params.tc .frameSent [0x01, 0x9A, 0x03, 0x42, 0xFA, 0x04, 0x04, 0x01, 0x02, 0x03, 0x04, 0, 0, 0, 0, 0] =
    .ok (.joinRequest { networkId := 0x04030201, mainType := 0x01, mainId := 0x9A, ownId := 0x42 }, [])

/-! ### Invariants and whole-machine rules -/

/-- R29, R130 (a), (b) and the facts of `State.Inv`: every step from a state that meets the invariant gives a state
that meets it, whatever the input. -/
def Obligations.StepKeepsTheInvariant : Prop :=
  ∀ s t : State, s.Inv → step s = .next t → t.Inv

/-- The machine right after reset meets the invariant (R37, R29). The buffers and the radio's fields hold the model's
choices there (log entries 8 and 9). -/
def Obligations.ResetMeetsTheInvariant : Prop := State.reset.Inv

/-- R37, R153: what reset leaves, where the spec gives a value. -/
def Obligations.ResetRegisters : Prop :=
  State.reset.engine.link = .uninit ∧ State.reset.engine.opstate = .idle ∧ State.reset.engine.op = .none ∧
  State.reset.engine.attempts = 0 ∧ State.reset.engine.maxRetries = 0 ∧ State.reset.engine.timeoutMs = 0 ∧
  State.reset.engine.attemptStart = 0 ∧ State.reset.engine.success = false ∧ State.reset.history = []

/-- R138, R16: a faulted link is never left, whatever comes. -/
def Obligations.FaultedLinkIsNeverLeft : Prop :=
  ∀ s t : State, s.engine.link = .fault → step s = .next t → t.engine.link = .fault

/-- R140, R8, R36: the refused mark is never cleared, the parameters are never written, and the history is only
appended to. -/
def Obligations.MarkParamsAndHistoryPersist : Prop :=
  ∀ s t : State, step s = .next t →
    (s.refusedMark = true → t.refusedMark = true) ∧ t.params = s.params ∧ s.history <+: t.history

/-- R130 (d), (e), R104, R103: in one host command the operation stays, is armed, moves discover → join or join → ack
with its own id kept and put into the record, or is reset; and `attempts` stays, goes up by one, or becomes 0. -/
def Obligations.PhasesMoveInOrder : Prop :=
  ∀ (s t : State) (i : Instr), i.isHostCommand = true → exec i s = .next t →
    (t.engine.op = s.engine.op ∨
      (i = .startPairing ∧ s.engine.opstate = .idle ∧ ∃ own, t.engine.op = .pairingDiscover own) ∨
      (∃ pr speed timer, i = .startSetSpeed pr speed timer ∧ s.engine.opstate = .idle ∧
        t.engine.op = .setSpeed pr speed timer) ∨
      (i = .process ∧ ∃ own pr, s.engine.op = .pairingDiscover own ∧ t.engine.op = .pairingJoin own pr ∧
        pr.ownId = own) ∨
      (i = .process ∧ ∃ own pr, s.engine.op = .pairingJoin own pr ∧ t.engine.op = .pairingAck own pr) ∨
      (i = .resetOperationState ∧ t.engine.op = .none)) ∧
    (t.engine.attempts = s.engine.attempts ∨ t.engine.attempts = 0 ∨
      (i = .process ∧ s.engine.opstate = .waitingResponse ∧ t.engine.attempts = s.engine.attempts + 1))

/-- R101, R24: a host command leaves `tx_buf` as it is but for an accepted start and the two phase changes; a retry
never rebuilds it. -/
def Obligations.TxBufIsWrittenOnlyWhenAFrameIsBuilt : Prop :=
  ∀ (s t : State) (i : Instr), i.isHostCommand = true → exec i s = .next t →
    t.engine.txBuf = s.engine.txBuf ∨
    (s.engine.link = .ready ∧ s.engine.opstate = .idle ∧
      (i = .startPairing ∨ ∃ pr speed timer, i = .startSetSpeed pr speed timer)) ∨
    (i = .process ∧ s.engine.opstate = .waitingResponse ∧
      ((∃ own, s.engine.op = .pairingDiscover own) ∨ ∃ own pr, s.engine.op = .pairingJoin own pr) ∧
      t.engine.op ≠ s.engine.op)

/-- R31, R40: no host command fills the TX FIFO past its size. -/
def Obligations.HostCommandsKeepTheTxFifoInItsSize : Prop :=
  ∀ (s t : State) (i : Instr), i.isHostCommand = true → s.params.wf = true →
    s.radio.txfifo.length ≤ s.params.txfifoCap → exec i s = .next t → t.radio.txfifo.length ≤ s.params.txfifoCap

/-- R34: no host command but `INIT` writes the packet length or a configuration register. -/
def Obligations.OnlyInitConfigures : Prop :=
  ∀ (s t : State) (i : Instr), i.isHostCommand = true → i ≠ .init → exec i s = .next t →
    t.radio.pktlen = s.radio.pktlen ∧ ∀ a, Memory.read t.radio.cfg a = Memory.read s.radio.cfg a

/-- R170, R10: the bus events of one host command, by command and path. A command turned away (`Refused` or `Busy`)
issues none. In WaitingResponse `shut` says that the poll stopped at the gate (R87), `n` counts the status read, and the
paths are: nothing happens, a retry, the budget used up, a frame that completes the operation, and the two phase changes. -/
def Obligations.WorkPerHostCommand : Prop :=
  ∀ (s t : State) (i : Instr), i.isHostCommand = true → exec i s = .next t →
    ∃ l, busTrace t.history = busTrace s.history ++ l ∧
      ((∃ r, t.outcome = .refused r) ∨ t.outcome = .busy → l = []) ∧
      ((∀ r, t.outcome ≠ .refused r) → t.outcome ≠ .busy →
        match i with
        | .init => l.length = 4
        | .startPairing | .startSetSpeed _ _ _ => l.length = 8
        | .process =>
          match s.engine.opstate with
          | .idle | .operationComplete => l = []
          | .transmitting => l.length = 2
          | .waitingResponse =>
            ∃ (shut : Bool) (n : Nat), (s.params.rxGate = false → shut = false) ∧
              (s.params.rxGate = true → ∀ r rest, s.draws.ready = r :: rest → shut = !r) ∧
              n = (if shut then 0 else 1) ∧
              ((t.engine = { s.engine with rxBuf := t.engine.rxBuf } ∧
                  (∀ now rest, s.draws.clock = now :: rest →
                    (now - s.engine.attemptStart).toNat < s.engine.timeoutMs.toNat) ∧
                  causeTrace t.history = causeTrace s.history ∧ l.length = n) ∨
                (t.engine.opstate = .transmitting ∧ t.engine.op = s.engine.op ∧
                  (∀ now rest, s.draws.clock = now :: rest →
                    s.engine.timeoutMs.toNat ≤ (now - s.engine.attemptStart).toNat) ∧
                  causeTrace t.history = causeTrace s.history ++ [.noResponse] ∧ l.length = n + 6) ∨
                (t.engine.opstate = .operationComplete ∧ t.engine.success = false ∧
                  (∀ now rest, s.draws.clock = now :: rest →
                    s.engine.timeoutMs.toNat ≤ (now - s.engine.attemptStart).toNat) ∧
                  causeTrace t.history = causeTrace s.history ++ [.retriesExhausted] ∧ l.length = n + 2) ∨
                (shut = false ∧ t.engine.opstate = .operationComplete ∧
                  (causeTrace t.history = causeTrace s.history ∨
                    causeTrace t.history = causeTrace s.history ++ [.protocolMismatch]) ∧
                  l.length = 3 + (if s.params.idleOnResponseComplete then 2 else 0)) ∨
                (shut = false ∧ l.length = 11 ∧
                  ∃ ownId pr, s.engine.op = .pairingDiscover ownId ∧ t.engine.op = .pairingJoin ownId pr) ∨
                (shut = false ∧ l.length = 9 ∧
                  ∃ ownId pr, s.engine.op = .pairingJoin ownId pr ∧ t.engine.op = .pairingAck ownId pr))
        | .resetOperationState => l.length = 2
        | _ => l = [])

/-- R65, R47: on the wire each transaction with an address is one header byte and its data bytes between one assert
and one deassert of chip-select; the two without one are the chip-select pattern and a silence. -/
def Obligations.WireFraming : Prop :=
  ∀ (p : Params) (st : Strobe) (a v : Byte) (bytes : List Byte) (items : List CsItem) (us : U32),
    wireOf p (.strobe st) = [.csAssert, .byteOut (Config.hdr 0 (p.strobeNum st)), .csDeassert] ∧
    wireOf p (.writeReg a v) = [.csAssert, .byteOut (Config.hdr 1 a), .byteOut v, .csDeassert] ∧
    wireOf p (.burstWrite a bytes) =
      [.csAssert, .byteOut (Config.hdr 2 a)] ++ bytes.map .byteOut ++ [.csDeassert] ∧
    wireOf p (.readStatus a v) = [.csAssert, .byteOut (Config.hdr 3 a), .byteIn v, .csDeassert] ∧
    wireOf p (.burstRead a bytes) =
      [.csAssert, .byteOut (Config.hdr 4 a)] ++ bytes.map .byteIn ++ [.csDeassert] ∧
    wireOf p (.csPulse items) = [.pattern items] ∧ wireOf p (.delay us) = [.quiet us]

/-! ### Whole operations -/

/-- R130 (c), R117: when retries run out, `attempts` is the whole budget, and the operation has failed. -/
def Obligations.ExhaustionUsesTheWholeBudget : Prop :=
  ∀ s t : State, s.Inv → exec .process s = .next t →
    causeTrace t.history = causeTrace s.history ++ [.retriesExhausted] →
    t.engine.attempts = t.engine.maxRetries ∧ t.engine.opstate = .operationComplete ∧ t.engine.success = false ∧
      t.engine.op = s.engine.op ∧ t.radio.mode = .idle

/-- R133, R135–R139, R142: a host command records at most one cause, each only where R133's "raised by" column has it: the
setup fault in an `INIT` that fails; in `PROCESS` in WaitingResponse a mismatch in PairingDiscover with another code in
byte 5, and at a timeout no response with budget left or exhausted retries without. -/
def Obligations.AtMostOneCausePerCommand : Prop :=
  ∀ (s t : State) (i : Instr), i.isHostCommand = true → exec i s = .next t →
    ∃ l, causeTrace t.history = causeTrace s.history ++ l ∧ l.length ≤ 1 ∧
      ∀ c ∈ l, (i = .init ∧ c = .setupFault ∧ t.outcome = .setupFault) ∨
        (i = .process ∧ s.engine.opstate = .waitingResponse ∧
          ((c = .protocolMismatch ∧ (∃ ownId, s.engine.op = .pairingDiscover ownId) ∧
              t.engine.rxBuf[5] ≠ s.params.codeJoinOpen) ∨
            (c = (if (s.engine.attempts + 1).toNat < s.engine.maxRetries.toNat then .noResponse else .retriesExhausted) ∧
              ∀ now rest, s.draws.clock = now :: rest →
                s.engine.timeoutMs.toNat ≤ (now - s.engine.attemptStart).toNat)))

/-- R103, R104: a discover, join and ack exchange in which every phase is answered gives a pairing record whose network
id, main type and main id are bytes 7–10, 2 and 3 of the discovery response and whose own id is the one drawn at the
start. Between the commands only the radio acts: the engine and the parameters stay. -/
def Obligations.PairingYieldsTheFansRecord : Prop :=
  ∀ (s0 s1 s2 s3 s4 s5 s6 s7 s8 s9 s10 : State) (f : Frame) (more : List Byte),
    s0.engine.link = .ready → s0.engine.opstate = .idle →
    exec .startPairing s0 = .next s1 → exec .process s1 = .next s2 →
    s3.engine = s2.engine → s3.params = s2.params → s3.FrameWaiting → s3.radio.rxfifo = f.toList ++ more →
    f[5] = s3.params.codeJoinOpen →
    exec .process s3 = .next s4 → exec .process s4 = .next s5 →
    s6.engine = s5.engine → s6.params = s5.params → s6.FrameWaiting →
    exec .process s6 = .next s7 → exec .process s7 = .next s8 →
    s9.engine = s8.engine → s9.params = s8.params → s9.FrameWaiting →
    exec .process s9 = .next s10 →
    ∃ ownId : Byte, 1 ≤ ownId.toNat ∧ ownId.toNat ≤ 254 ∧ s1.engine.op = .pairingDiscover ownId ∧
      s1.engine.txBuf[3] = ownId ∧ s4.engine.txBuf[3] = ownId ∧ s7.engine.txBuf[3] = ownId ∧
      s10.engine.opstate = .operationComplete ∧ s10.engine.success = true ∧
      exec .getPairingResult s10 =
        .next { s10 with outcome := .ok [1, f[7], f[8], f[9], f[10], f[2], f[3], ownId] }

/-- R158, R115, R117, R121, R122: a poll whose clock sample has reached the timeout, and a poll that finds a frame, leave
fewer attempts to make than before; a poll that does neither leaves the engine as it is. At 0 the operation is over. -/
def Obligations.EveryWaitUsesUpAnAttempt : Prop :=
  ∀ s t : State, s.Inv → exec .process s = .next t →
    (s.engine.opstate = .transmitting →
      t.engine.opstate = .waitingResponse ∧ t.engine.attemptsLeft = s.engine.attemptsLeft) ∧
    (s.engine.opstate = .waitingResponse →
      t.engine.attemptsLeft < s.engine.attemptsLeft ∨
      (t.engine = { s.engine with rxBuf := t.engine.rxBuf } ∧ ¬s.FrameWaiting ∧
        ∀ now rest, s.draws.clock = now :: rest →
          (now - s.engine.attemptStart).toNat < s.engine.timeoutMs.toNat)) ∧
    (t.engine.attemptsLeft = 0 ↔ t.engine.opstate = .idle ∨ t.engine.opstate = .operationComplete)

/-- R158: an operation starts with at most `N_CMD + N_CMD + N_ACK` attempts to make: exactly that for a pairing, and
`N_CMD` for a set-speed command. -/
def Obligations.OperationsStartWithTheirWholeBudget : Prop :=
  ∀ s : State, s.engine.link = .ready → s.engine.opstate = .idle →
    (∃ t, exec .startPairing s = .next t ∧
      t.engine.attemptsLeft = s.params.nCmd.toNat + s.params.nCmd.toNat + 1) ∧
    ∀ pr speed timer, ∃ t, exec (.startSetSpeed pr speed timer) s = .next t ∧
      t.engine.attemptsLeft = s.params.nCmd.toNat
end

