-- ==== Sys2Proof/Laws/State.lean ====
section
/-! SUPPORT. The small lemmas of the state: one for each field each update leaves alone or writes, so that no later
proof unfolds a record update. -/

namespace Sys2Proof.Machine

/-! ### Draws -/

theorem nextDraw_cons {α : Type} (a : α) (rest : List α) (free : Nat → α) (n : Nat) :
    nextDraw (a :: rest) free n = (a, rest, n) := rfl

theorem nextDraw_nil {α : Type} (free : Nat → α) (n : Nat) : nextDraw [] free n = (free n, [], n + 1) := rfl

@[simp] theorem drawClock_engine (s : State) : (drawClock s).2.engine = s.engine := rfl
@[simp] theorem drawClock_radio (s : State) : (drawClock s).2.radio = s.radio := rfl
@[simp] theorem drawClock_history (s : State) : (drawClock s).2.history = s.history := rfl
@[simp] theorem drawClock_refusedMark (s : State) : (drawClock s).2.refusedMark = s.refusedMark := rfl
@[simp] theorem drawClock_outcome (s : State) : (drawClock s).2.outcome = s.outcome := rfl
@[simp] theorem drawClock_inputs (s : State) : (drawClock s).2.inputs = s.inputs := rfl
@[simp] theorem drawClock_params (s : State) : (drawClock s).2.params = s.params := rfl
@[simp] theorem drawClock_draws_ownId (s : State) : (drawClock s).2.draws.ownId = s.draws.ownId := rfl
@[simp] theorem drawClock_draws_initOk (s : State) : (drawClock s).2.draws.initOk = s.draws.initOk := rfl
@[simp] theorem drawClock_draws_ready (s : State) : (drawClock s).2.draws.ready = s.draws.ready := rfl
@[simp] theorem drawClock_draws_gaps (s : State) : (drawClock s).2.draws.gaps = s.draws.gaps := rfl

@[simp] theorem drawOwnId_engine (s : State) : (drawOwnId s).2.engine = s.engine := rfl
@[simp] theorem drawOwnId_radio (s : State) : (drawOwnId s).2.radio = s.radio := rfl
@[simp] theorem drawOwnId_history (s : State) : (drawOwnId s).2.history = s.history := rfl
@[simp] theorem drawOwnId_refusedMark (s : State) : (drawOwnId s).2.refusedMark = s.refusedMark := rfl
@[simp] theorem drawOwnId_outcome (s : State) : (drawOwnId s).2.outcome = s.outcome := rfl
@[simp] theorem drawOwnId_inputs (s : State) : (drawOwnId s).2.inputs = s.inputs := rfl
@[simp] theorem drawOwnId_params (s : State) : (drawOwnId s).2.params = s.params := rfl
@[simp] theorem drawOwnId_draws_clock (s : State) : (drawOwnId s).2.draws.clock = s.draws.clock := rfl
@[simp] theorem drawOwnId_draws_initOk (s : State) : (drawOwnId s).2.draws.initOk = s.draws.initOk := rfl
@[simp] theorem drawOwnId_draws_ready (s : State) : (drawOwnId s).2.draws.ready = s.draws.ready := rfl
@[simp] theorem drawOwnId_draws_gaps (s : State) : (drawOwnId s).2.draws.gaps = s.draws.gaps := rfl

@[simp] theorem drawInitOk_engine (s : State) : (drawInitOk s).2.engine = s.engine := rfl
@[simp] theorem drawInitOk_radio (s : State) : (drawInitOk s).2.radio = s.radio := rfl
@[simp] theorem drawInitOk_history (s : State) : (drawInitOk s).2.history = s.history := rfl
@[simp] theorem drawInitOk_refusedMark (s : State) : (drawInitOk s).2.refusedMark = s.refusedMark := rfl
@[simp] theorem drawInitOk_outcome (s : State) : (drawInitOk s).2.outcome = s.outcome := rfl
@[simp] theorem drawInitOk_inputs (s : State) : (drawInitOk s).2.inputs = s.inputs := rfl
@[simp] theorem drawInitOk_params (s : State) : (drawInitOk s).2.params = s.params := rfl
@[simp] theorem drawInitOk_draws_clock (s : State) : (drawInitOk s).2.draws.clock = s.draws.clock := rfl
@[simp] theorem drawInitOk_draws_ownId (s : State) : (drawInitOk s).2.draws.ownId = s.draws.ownId := rfl
@[simp] theorem drawInitOk_draws_ready (s : State) : (drawInitOk s).2.draws.ready = s.draws.ready := rfl
@[simp] theorem drawInitOk_draws_gaps (s : State) : (drawInitOk s).2.draws.gaps = s.draws.gaps := rfl

@[simp] theorem drawTxSent_engine (s : State) : (drawTxSent s).2.engine = s.engine := rfl
@[simp] theorem drawTxSent_radio (s : State) : (drawTxSent s).2.radio = s.radio := rfl
@[simp] theorem drawTxSent_history (s : State) : (drawTxSent s).2.history = s.history := rfl
@[simp] theorem drawTxSent_refusedMark (s : State) : (drawTxSent s).2.refusedMark = s.refusedMark := rfl
@[simp] theorem drawTxSent_outcome (s : State) : (drawTxSent s).2.outcome = s.outcome := rfl
@[simp] theorem drawTxSent_inputs (s : State) : (drawTxSent s).2.inputs = s.inputs := rfl
@[simp] theorem drawTxSent_params (s : State) : (drawTxSent s).2.params = s.params := rfl
@[simp] theorem drawTxSent_draws_clock (s : State) : (drawTxSent s).2.draws.clock = s.draws.clock := rfl
@[simp] theorem drawTxSent_draws_ownId (s : State) : (drawTxSent s).2.draws.ownId = s.draws.ownId := rfl
@[simp] theorem drawTxSent_draws_initOk (s : State) : (drawTxSent s).2.draws.initOk = s.draws.initOk := rfl
@[simp] theorem drawTxSent_draws_ready (s : State) : (drawTxSent s).2.draws.ready = s.draws.ready := rfl
@[simp] theorem drawTxSent_draws_gaps (s : State) : (drawTxSent s).2.draws.gaps = s.draws.gaps := rfl

@[simp] theorem drawReady_engine (s : State) : (drawReady s).2.engine = s.engine := rfl
@[simp] theorem drawReady_radio (s : State) : (drawReady s).2.radio = s.radio := rfl
@[simp] theorem drawReady_history (s : State) : (drawReady s).2.history = s.history := rfl
@[simp] theorem drawReady_refusedMark (s : State) : (drawReady s).2.refusedMark = s.refusedMark := rfl
@[simp] theorem drawReady_outcome (s : State) : (drawReady s).2.outcome = s.outcome := rfl
@[simp] theorem drawReady_inputs (s : State) : (drawReady s).2.inputs = s.inputs := rfl
@[simp] theorem drawReady_params (s : State) : (drawReady s).2.params = s.params := rfl
@[simp] theorem drawReady_draws_clock (s : State) : (drawReady s).2.draws.clock = s.draws.clock := rfl
@[simp] theorem drawReady_draws_ownId (s : State) : (drawReady s).2.draws.ownId = s.draws.ownId := rfl
@[simp] theorem drawReady_draws_initOk (s : State) : (drawReady s).2.draws.initOk = s.draws.initOk := rfl
@[simp] theorem drawReady_draws_gaps (s : State) : (drawReady s).2.draws.gaps = s.draws.gaps := rfl

@[simp] theorem drawStatus_engine (s : State) : (drawStatus s).2.engine = s.engine := rfl
@[simp] theorem drawStatus_radio (s : State) : (drawStatus s).2.radio = s.radio := rfl
@[simp] theorem drawStatus_history (s : State) : (drawStatus s).2.history = s.history := rfl
@[simp] theorem drawStatus_refusedMark (s : State) : (drawStatus s).2.refusedMark = s.refusedMark := rfl
@[simp] theorem drawStatus_outcome (s : State) : (drawStatus s).2.outcome = s.outcome := rfl
@[simp] theorem drawStatus_inputs (s : State) : (drawStatus s).2.inputs = s.inputs := rfl
@[simp] theorem drawStatus_params (s : State) : (drawStatus s).2.params = s.params := rfl
@[simp] theorem drawStatus_draws_clock (s : State) : (drawStatus s).2.draws.clock = s.draws.clock := rfl
@[simp] theorem drawStatus_draws_ownId (s : State) : (drawStatus s).2.draws.ownId = s.draws.ownId := rfl
@[simp] theorem drawStatus_draws_initOk (s : State) : (drawStatus s).2.draws.initOk = s.draws.initOk := rfl
@[simp] theorem drawStatus_draws_ready (s : State) : (drawStatus s).2.draws.ready = s.draws.ready := rfl
@[simp] theorem drawStatus_draws_gaps (s : State) : (drawStatus s).2.draws.gaps = s.draws.gaps := rfl

@[simp] theorem drawChipRegs_engine (s : State) : (drawChipRegs s).2.engine = s.engine := rfl
@[simp] theorem drawChipRegs_radio (s : State) : (drawChipRegs s).2.radio = s.radio := rfl
@[simp] theorem drawChipRegs_history (s : State) : (drawChipRegs s).2.history = s.history := rfl
@[simp] theorem drawChipRegs_refusedMark (s : State) : (drawChipRegs s).2.refusedMark = s.refusedMark := rfl
@[simp] theorem drawChipRegs_outcome (s : State) : (drawChipRegs s).2.outcome = s.outcome := rfl
@[simp] theorem drawChipRegs_inputs (s : State) : (drawChipRegs s).2.inputs = s.inputs := rfl
@[simp] theorem drawChipRegs_params (s : State) : (drawChipRegs s).2.params = s.params := rfl
@[simp] theorem drawChipRegs_draws_clock (s : State) : (drawChipRegs s).2.draws.clock = s.draws.clock := rfl
@[simp] theorem drawChipRegs_draws_ownId (s : State) : (drawChipRegs s).2.draws.ownId = s.draws.ownId := rfl
@[simp] theorem drawChipRegs_draws_initOk (s : State) : (drawChipRegs s).2.draws.initOk = s.draws.initOk := rfl
@[simp] theorem drawChipRegs_draws_ready (s : State) : (drawChipRegs s).2.draws.ready = s.draws.ready := rfl
@[simp] theorem drawChipRegs_draws_gaps (s : State) : (drawChipRegs s).2.draws.gaps = s.draws.gaps := rfl

@[simp] theorem drawRxBuf_engine (s : State) : (drawRxBuf s).2.engine = s.engine := rfl
@[simp] theorem drawRxBuf_radio (s : State) : (drawRxBuf s).2.radio = s.radio := rfl
@[simp] theorem drawRxBuf_history (s : State) : (drawRxBuf s).2.history = s.history := rfl
@[simp] theorem drawRxBuf_refusedMark (s : State) : (drawRxBuf s).2.refusedMark = s.refusedMark := rfl
@[simp] theorem drawRxBuf_outcome (s : State) : (drawRxBuf s).2.outcome = s.outcome := rfl
@[simp] theorem drawRxBuf_inputs (s : State) : (drawRxBuf s).2.inputs = s.inputs := rfl
@[simp] theorem drawRxBuf_params (s : State) : (drawRxBuf s).2.params = s.params := rfl
@[simp] theorem drawRxBuf_draws_clock (s : State) : (drawRxBuf s).2.draws.clock = s.draws.clock := rfl
@[simp] theorem drawRxBuf_draws_ownId (s : State) : (drawRxBuf s).2.draws.ownId = s.draws.ownId := rfl
@[simp] theorem drawRxBuf_draws_initOk (s : State) : (drawRxBuf s).2.draws.initOk = s.draws.initOk := rfl
@[simp] theorem drawRxBuf_draws_ready (s : State) : (drawRxBuf s).2.draws.ready = s.draws.ready := rfl
@[simp] theorem drawRxBuf_draws_gaps (s : State) : (drawRxBuf s).2.draws.gaps = s.draws.gaps := rfl

@[simp] theorem drawGap_engine (s : State) : (drawGap s).2.engine = s.engine := rfl
@[simp] theorem drawGap_radio (s : State) : (drawGap s).2.radio = s.radio := rfl
@[simp] theorem drawGap_history (s : State) : (drawGap s).2.history = s.history := rfl
@[simp] theorem drawGap_refusedMark (s : State) : (drawGap s).2.refusedMark = s.refusedMark := rfl
@[simp] theorem drawGap_outcome (s : State) : (drawGap s).2.outcome = s.outcome := rfl
@[simp] theorem drawGap_inputs (s : State) : (drawGap s).2.inputs = s.inputs := rfl
@[simp] theorem drawGap_params (s : State) : (drawGap s).2.params = s.params := rfl
@[simp] theorem drawGap_draws_clock (s : State) : (drawGap s).2.draws.clock = s.draws.clock := rfl
@[simp] theorem drawGap_draws_ownId (s : State) : (drawGap s).2.draws.ownId = s.draws.ownId := rfl
@[simp] theorem drawGap_draws_initOk (s : State) : (drawGap s).2.draws.initOk = s.draws.initOk := rfl
@[simp] theorem drawGap_draws_ready (s : State) : (drawGap s).2.draws.ready = s.draws.ready := rfl

theorem drawClock_cons {s : State} {c : U32} {rest : List U32} (h : s.draws.clock = c :: rest) :
    (drawClock s).1 = c := by simp [drawClock, h, nextDraw_cons]

theorem drawInitOk_cons {s : State} {b : Bool} {rest : List Bool} (h : s.draws.initOk = b :: rest) :
    (drawInitOk s).1 = b := by simp [drawInitOk, h, nextDraw_cons]

theorem drawReady_cons {s : State} {b : Bool} {rest : List Bool} (h : s.draws.ready = b :: rest) :
    (drawReady s).1 = b := by simp [drawReady, h, nextDraw_cons]

theorem drawOwnId_cons {s : State} {k : Fin 254} {rest : List (Fin 254)} (h : s.draws.ownId = k :: rest) :
    (drawOwnId s).1.toNat = k.val + 1 := by
  have := k.isLt
  simp only [drawOwnId, h, nextDraw_cons, ownIdOf, BitVec.toNat_ofNat]
  omega

/-- An own id is always in [1, 254] (R105). -/
theorem ownIdOf_range (k : Fin 254) : 1 ≤ (ownIdOf k).toNat ∧ (ownIdOf k).toNat ≤ 254 := by
  have := k.isLt
  simp only [ownIdOf, BitVec.toNat_ofNat]
  omega

theorem drawOwnId_range (s : State) : 1 ≤ (drawOwnId s).1.toNat ∧ (drawOwnId s).1.toNat ≤ 254 :=
  ownIdOf_range _

/-! ### The history -/

@[simp] theorem busTrace_nil : busTrace [] = [] := rfl
@[simp] theorem causeTrace_nil : causeTrace [] = [] := rfl

@[simp] theorem busTrace_append (l m : List Event) : busTrace (l ++ m) = busTrace l ++ busTrace m := by
  simp [busTrace]

@[simp] theorem causeTrace_append (l m : List Event) : causeTrace (l ++ m) = causeTrace l ++ causeTrace m := by
  simp [causeTrace]

@[simp] theorem busTrace_cons_bus (t : BusEvent) (l : List Event) : busTrace (.bus t :: l) = t :: busTrace l := rfl
@[simp] theorem busTrace_cons_airTx (b : List Byte) (l : List Event) : busTrace (.airTx b :: l) = busTrace l := rfl
@[simp] theorem busTrace_cons_airRx (b : List Byte) (l : List Event) : busTrace (.airRx b :: l) = busTrace l := rfl
@[simp] theorem busTrace_cons_lost (l : List Event) : busTrace (.lost :: l) = busTrace l := rfl
@[simp] theorem busTrace_cons_cause (c : Cause) (l : List Event) : busTrace (.cause c :: l) = busTrace l := rfl
@[simp] theorem causeTrace_cons_bus (t : BusEvent) (l : List Event) : causeTrace (.bus t :: l) = causeTrace l := rfl
@[simp] theorem causeTrace_cons_airTx (b : List Byte) (l : List Event) : causeTrace (.airTx b :: l) = causeTrace l := rfl
@[simp] theorem causeTrace_cons_airRx (b : List Byte) (l : List Event) : causeTrace (.airRx b :: l) = causeTrace l := rfl
@[simp] theorem causeTrace_cons_lost (l : List Event) : causeTrace (.lost :: l) = causeTrace l := rfl
@[simp] theorem causeTrace_cons_cause (c : Cause) (l : List Event) : causeTrace (.cause c :: l) = c :: causeTrace l := rfl


@[simp] theorem logEvent_history (ev : Event) (s : State) : (logEvent ev s).history = s.history ++ [ev] := rfl
@[simp] theorem logEvent_engine (ev : Event) (s : State) : (logEvent ev s).engine = s.engine := rfl
@[simp] theorem logEvent_radio (ev : Event) (s : State) : (logEvent ev s).radio = s.radio := rfl
@[simp] theorem logEvent_draws (ev : Event) (s : State) : (logEvent ev s).draws = s.draws := rfl
@[simp] theorem logEvent_refusedMark (ev : Event) (s : State) : (logEvent ev s).refusedMark = s.refusedMark := rfl
@[simp] theorem logEvent_outcome (ev : Event) (s : State) : (logEvent ev s).outcome = s.outcome := rfl
@[simp] theorem logEvent_inputs (ev : Event) (s : State) : (logEvent ev s).inputs = s.inputs := rfl
@[simp] theorem logEvent_params (ev : Event) (s : State) : (logEvent ev s).params = s.params := rfl

@[simp] theorem logBus_history (t : BusEvent) (s : State) : (logBus t s).history = s.history ++ [.bus t] := rfl
@[simp] theorem logBus_engine (t : BusEvent) (s : State) : (logBus t s).engine = s.engine := rfl
@[simp] theorem logBus_radio (t : BusEvent) (s : State) : (logBus t s).radio = s.radio := rfl
@[simp] theorem logBus_draws (t : BusEvent) (s : State) : (logBus t s).draws = s.draws := rfl
@[simp] theorem logBus_refusedMark (t : BusEvent) (s : State) : (logBus t s).refusedMark = s.refusedMark := rfl
@[simp] theorem logBus_outcome (t : BusEvent) (s : State) : (logBus t s).outcome = s.outcome := rfl
@[simp] theorem logBus_inputs (t : BusEvent) (s : State) : (logBus t s).inputs = s.inputs := rfl
@[simp] theorem logBus_params (t : BusEvent) (s : State) : (logBus t s).params = s.params := rfl

/-! ### How a step ends -/

/-- `finish` always answers a next state, and changes the outcome only. -/
@[simp] theorem finish_eq_next (o : StepOutcome) (s t : State) :
    finish o s = .next t ↔ { s with outcome := o } = t := by simp [finish]

/-- `refuse` always answers a next state, and changes the mark and the outcome only (R140, R142). -/
@[simp] theorem refuse_eq_next (r : RefuseReason) (s t : State) :
    refuse r s = .next t ↔ { s with refusedMark := true, outcome := .refused r } = t := by simp [refuse]

/-- Both FIFOs hold a frame (R8). -/
theorem params_wf_caps {p : Params} (h : p.wf = true) : 16 ≤ p.txfifoCap ∧ 16 ≤ p.rxfifoCap := by
  simp only [Params.wf, Bool.and_eq_true, decide_eq_true_eq] at h
  exact ⟨h.1.1.1.1.1.1.2, h.1.1.1.1.1.2⟩

/-- The retry budget is at least 1 (R130). -/
theorem params_wf_nCmd {p : Params} (h : p.wf = true) : 1 ≤ p.nCmd.toNat := by
  simp only [Params.wf, Bool.and_eq_true, decide_eq_true_eq] at h
  exact h.1.1.1.1.1.1.1

/-- The parameters after reset meet the constraints. -/
theorem config_params_wf : Config.params.wf = true := by
  unfold Config.params
  split
  · assumption
  · decide +kernel

end Sys2Proof.Machine
end

