-- ==== Sys2Proof/Laws/Memory.lean ====
section
/-! SUPPORT. The register space: read after write, and every operation keeps the canonical form. -/

namespace Sys2Proof.Machine

theorem memory_wf_iff (m : Memory) :
    Memory.wf m = true ↔ (m.Pairwise fun c d => c.1 < d.1) ∧ ∀ c ∈ m, c.2 ≠ 0 := by
  simp [Memory.wf]

theorem memory_wf_cons (c : Host.Cell) (rest : Memory) :
    Memory.wf (c :: rest) = true ↔ (∀ d ∈ rest, c.1 < d.1) ∧ c.2 ≠ 0 ∧ Memory.wf rest = true := by
  simp only [memory_wf_iff, List.pairwise_cons, List.forall_mem_cons]
  tauto

@[simp] theorem memory_wf_nil : Memory.wf [] = true := by decide

/-- Reading a register below every listed one gives 0. -/
theorem memory_read_below (m : Memory) (a : Nat) (h : ∀ d ∈ m, a < d.1) : Memory.read m a = 0 := by
  induction m with
  | nil => rfl
  | cons c rest ih =>
    have hc : c.1 ≠ a := by have := h c (by simp); omega
    simp only [Memory.read, hc, if_false]
    exact ih fun d hd => h d (by simp [hd])

/-- A register reads as the byte last written to it. -/
theorem memory_read_write_same (m : Memory) (a : Nat) (v : Byte) (h : Memory.wf m = true) :
    Memory.read (Memory.write m a v) a = v := by
  induction m with
  | nil => by_cases hv : v = 0#8 <;> simp [Memory.write, Memory.read, hv]
  | cons c rest ih =>
    obtain ⟨hlt, -, hrest⟩ := (memory_wf_cons c rest).1 h
    simp only [Memory.write]
    split
    · rename_i hca
      have : c.1 ≠ a := by omega
      simpa [Memory.read, this] using ih hrest
    · split
      · rename_i hca
        by_cases hv : v = 0#8
        · simpa [hv] using memory_read_below rest a fun d hd => hca ▸ hlt d hd
        · simp [Memory.read, hv]
      · rename_i h1 h2
        by_cases hv : v = 0#8
        · have hbelow : ∀ d ∈ c :: rest, a < d.1 := by
            intro d hd
            rcases List.mem_cons.1 hd with rfl | hd
            · omega
            · have := hlt d hd; omega
          simpa [hv] using memory_read_below (c :: rest) a hbelow
        · simp [Memory.read, hv]

/-- A write leaves every other register alone. -/
theorem memory_read_write_other (m : Memory) (a b : Nat) (v : Byte) (hab : b ≠ a) :
    Memory.read (Memory.write m a v) b = Memory.read m b := by
  have hba : a ≠ b := fun e => hab e.symm
  induction m with
  | nil => by_cases hv : v = 0#8 <;> simp [Memory.write, Memory.read, hv, hba]
  | cons c rest ih =>
    simp only [Memory.write]
    split
    · simp only [Memory.read, ih]
    · split
      · rename_i hca
        have hcb : c.1 ≠ b := by omega
        by_cases hv : v = 0#8 <;> simp [Memory.read, hv, hba, hcb]
      · by_cases hv : v = 0#8 <;> simp [Memory.read, hv, hba]

theorem memory_mem_write (m : Memory) (a : Nat) (v : Byte) (d : Host.Cell) (hd : d ∈ Memory.write m a v) :
    d ∈ m ∨ d = (a, v) := by
  induction m with
  | nil =>
    simp only [Memory.write] at hd
    split at hd
    · simp at hd
    · exact .inr (by simpa using hd)
  | cons c rest ih =>
    simp only [Memory.write] at hd
    split at hd
    · rcases List.mem_cons.1 hd with rfl | hd
      · simp
      · rcases ih hd with h | h <;> simp [h]
    · split at hd
      · split at hd
        · simp [hd]
        · rcases List.mem_cons.1 hd with rfl | hd <;> simp_all
      · split at hd
        · simp [List.mem_cons.1 hd]
        · rcases List.mem_cons.1 hd with rfl | hd
          · simp
          · simp [List.mem_cons.1 hd]

/-- A write keeps the canonical form. -/
theorem memory_write_wf (m : Memory) (a : Nat) (v : Byte) (h : Memory.wf m = true) :
    Memory.wf (Memory.write m a v) = true := by
  induction m with
  | nil => by_cases hv : v = 0#8 <;> simp [Memory.write, hv, memory_wf_cons]
  | cons c rest ih =>
    obtain ⟨hlt, hc0, hrest⟩ := (memory_wf_cons c rest).1 h
    simp only [Memory.write]
    split
    · rename_i hca
      refine (memory_wf_cons _ _).2 ⟨fun d hd => ?_, hc0, ih hrest⟩
      rcases memory_mem_write rest a v d hd with hd | rfl
      · exact hlt d hd
      · exact hca
    · split
      · rename_i hca
        split
        · exact hrest
        · rename_i hv
          exact (memory_wf_cons _ _).2 ⟨fun d hd => hca ▸ hlt d hd, hv, hrest⟩
      · rename_i h1 h2
        split
        · exact h
        · rename_i hv
          refine (memory_wf_cons _ _).2 ⟨fun d hd => ?_, hv, h⟩
          have hac : a < c.1 := by omega
          rcases List.mem_cons.1 hd with rfl | hd
          · exact hac
          · exact lt_trans hac (hlt d hd)

theorem memory_foldl_wf (l : List (Nat × Byte)) (m : Memory) (h : Memory.wf m = true) :
    Memory.wf (l.foldl (fun m c => Memory.write m c.1 c.2) m) = true := by
  induction l generalizing m with
  | nil => exact h
  | cons c rest ih => exact ih _ (memory_write_wf m _ _ h)

/-- The register space a chip reset leaves is canonical. -/
theorem memory_ofRegs_wf (l : List (Nat × Byte)) : Memory.wf (Memory.ofRegs l) = true :=
  memory_foldl_wf l [] (by decide)

end Sys2Proof.Machine
end

