-- ==== Sys2Proof/Laws/Radio.lean ====
section
/-! SUPPORT. Everything the radio agent can do (40_radio_driver.md R88; 60_exceptions.md R141): it changes the radio's
mode and FIFOs and the history, and nothing else. -/

namespace Sys2Proof.Machine

/-- What any number of radio-agent steps leave alone, and how far they reach. -/
structure AirFrame (s u : State) : Prop where
  engine : u.engine = s.engine
  params : u.params = s.params
  inputs : u.inputs = s.inputs
  outcome : u.outcome = s.outcome
  refusedMark : u.refusedMark = s.refusedMark
  addr : u.radio.addr = s.radio.addr
  pktlen : u.radio.pktlen = s.radio.pktlen
  cfg : u.radio.cfg = s.radio.cfg
  rxfifo : s.radio.rxfifo <+: u.radio.rxfifo
  rxfifo_le : s.radio.rxfifo.length ≤ s.params.rxfifoCap → u.radio.rxfifo.length ≤ s.params.rxfifoCap
  txfifo : u.radio.txfifo = s.radio.txfifo ∨ u.radio.txfifo = []
  still : s.radio.mode = .idle → u.radio = s.radio ∧ u.history = s.history
  history : s.history <+: u.history
  bus : busTrace u.history = busTrace s.history
  cause : causeTrace u.history = causeTrace s.history
  clock : u.draws.clock = s.draws.clock
  ownId : u.draws.ownId = s.draws.ownId
  initOk : u.draws.initOk = s.draws.initOk
  ready : u.draws.ready = s.draws.ready

theorem AirFrame.refl (s : State) : AirFrame s s := by
  constructor <;> simp

theorem AirFrame.trans {s t u : State} (h : AirFrame s t) (k : AirFrame t u) : AirFrame s u where
  engine := k.engine.trans h.engine
  params := k.params.trans h.params
  inputs := k.inputs.trans h.inputs
  outcome := k.outcome.trans h.outcome
  refusedMark := k.refusedMark.trans h.refusedMark
  addr := k.addr.trans h.addr
  pktlen := k.pktlen.trans h.pktlen
  cfg := k.cfg.trans h.cfg
  rxfifo := h.rxfifo.trans k.rxfifo
  rxfifo_le := fun e => by
    have h1 := k.rxfifo_le
    rw [h.params] at h1
    exact h1 (h.rxfifo_le e)
  txfifo := by
    rcases k.txfifo with e | e
    · rcases h.txfifo with e' | e'
      · exact .inl (e.trans e')
      · exact .inr (e.trans e')
    · exact .inr e
  still := fun e => by
    obtain ⟨h1, h2⟩ := h.still e
    obtain ⟨k1, k2⟩ := k.still (by rw [h1]; exact e)
    exact ⟨k1.trans h1, k2.trans h2⟩
  history := h.history.trans k.history
  bus := k.bus.trans h.bus
  cause := k.cause.trans h.cause
  clock := k.clock.trans h.clock
  ownId := k.ownId.trans h.ownId
  initOk := k.initOk.trans h.initOk
  ready := k.ready.trans h.ready

/-- One step of the radio agent is a step of the radio only (R88). -/
theorem radioStep_air (a : RadioAct) (s : State) : AirFrame s (radioStep a s) := by
  cases a with
  | airTx toRx =>
    simp only [radioStep]
    split
    · rename_i h
      have hm : s.radio.mode ≠ .idle := by rw [h.1]; decide
      constructor <;> simp [hm]
    · exact .refl s
  | airRx bytes =>
    simp only [radioStep]
    split
    · rename_i h
      have hm : s.radio.mode ≠ .idle := by rw [h.1]; decide
      constructor <;> simp [hm]
      intro hle
      omega
    · exact .refl s
  | rxOff =>
    simp only [radioStep]
    split
    · rename_i h
      have hm : s.radio.mode ≠ .idle := by rw [h]; decide
      constructor <;> simp [hm]
    · exact .refl s

theorem radioSteps_air (l : List RadioAct) (s : State) : AirFrame s (l.foldl (fun u a => radioStep a u) s) := by
  induction l generalizing s with
  | nil => exact .refl s
  | cons a rest ih => exact (radioStep_air a s).trans (ih _)

/-- The steps before a bus transaction are steps of the radio only (R12, R88). -/
theorem radioGap_air (s : State) : AirFrame s (radioGap s) := by
  have h : AirFrame s (drawGap s).2 := by constructor <;> simp
  exact h.trans (radioSteps_air _ _)

@[simp] theorem radioGap_engine (s : State) : (radioGap s).engine = s.engine := (radioGap_air s).engine
@[simp] theorem radioGap_params (s : State) : (radioGap s).params = s.params := (radioGap_air s).params
@[simp] theorem radioGap_inputs (s : State) : (radioGap s).inputs = s.inputs := (radioGap_air s).inputs
@[simp] theorem radioGap_outcome (s : State) : (radioGap s).outcome = s.outcome := (radioGap_air s).outcome
@[simp] theorem radioGap_refusedMark (s : State) : (radioGap s).refusedMark = s.refusedMark :=
  (radioGap_air s).refusedMark
@[simp] theorem radioGap_addr (s : State) : (radioGap s).radio.addr = s.radio.addr := (radioGap_air s).addr
@[simp] theorem radioGap_pktlen (s : State) : (radioGap s).radio.pktlen = s.radio.pktlen := (radioGap_air s).pktlen
@[simp] theorem radioGap_cfg (s : State) : (radioGap s).radio.cfg = s.radio.cfg := (radioGap_air s).cfg
@[simp] theorem radioGap_busTrace (s : State) : busTrace (radioGap s).history = busTrace s.history :=
  (radioGap_air s).bus
@[simp] theorem radioGap_causeTrace (s : State) : causeTrace (radioGap s).history = causeTrace s.history :=
  (radioGap_air s).cause
@[simp] theorem radioGap_draws_initOk (s : State) : (radioGap s).draws.initOk = s.draws.initOk :=
  (radioGap_air s).initOk
@[simp] theorem radioGap_draws_ready (s : State) : (radioGap s).draws.ready = s.draws.ready := (radioGap_air s).ready

/-! Recording a cause: the radio agent's steps, then the one event (R88, R133). -/

@[simp] theorem recordCause_engine (c : Cause) (s : State) : (recordCause c s).engine = s.engine := radioGap_engine s
@[simp] theorem recordCause_params (c : Cause) (s : State) : (recordCause c s).params = s.params := radioGap_params s
@[simp] theorem recordCause_inputs (c : Cause) (s : State) : (recordCause c s).inputs = s.inputs := radioGap_inputs s
@[simp] theorem recordCause_outcome (c : Cause) (s : State) : (recordCause c s).outcome = s.outcome := radioGap_outcome s
@[simp] theorem recordCause_refusedMark (c : Cause) (s : State) : (recordCause c s).refusedMark = s.refusedMark := radioGap_refusedMark s
@[simp] theorem recordCause_addr (c : Cause) (s : State) : (recordCause c s).radio.addr = s.radio.addr :=
  radioGap_addr s
@[simp] theorem recordCause_pktlen (c : Cause) (s : State) : (recordCause c s).radio.pktlen = s.radio.pktlen :=
  radioGap_pktlen s
@[simp] theorem recordCause_cfg (c : Cause) (s : State) : (recordCause c s).radio.cfg = s.radio.cfg :=
  radioGap_cfg s
@[simp] theorem recordCause_draws_initOk (c : Cause) (s : State) : (recordCause c s).draws.initOk = s.draws.initOk :=
  radioGap_draws_initOk s
@[simp] theorem recordCause_busTrace (c : Cause) (s : State) :
    busTrace (recordCause c s).history = busTrace s.history := by simp [recordCause]
@[simp] theorem recordCause_causeTrace (c : Cause) (s : State) :
    causeTrace (recordCause c s).history = causeTrace s.history ++ [c] := by simp [recordCause]

/-- Bytes that had arrived stay where they were (R88). -/
theorem recordCause_rxfifo (c : Cause) (s : State) : s.radio.rxfifo <+: (recordCause c s).radio.rxfifo :=
  (radioGap_air s).rxfifo

/-- In IDLE the radio agent has no step (R88). -/
theorem radioGap_idle {s : State} (h : s.radio.mode = .idle) :
    (radioGap s).radio = s.radio ∧ (radioGap s).history = s.history := (radioGap_air s).still h

/-- In IDLE recording a cause adds the one event and leaves the radio as it is. -/
theorem recordCause_idle {s : State} (h : s.radio.mode = .idle) (c : Cause) :
    (recordCause c s).radio = s.radio ∧ (recordCause c s).history = s.history ++ [.cause c] := by
  obtain ⟨h1, h2⟩ := radioGap_idle h
  exact ⟨h1, by simp [recordCause, h2]⟩

/-- A failed bring-up, which leaves the chip in IDLE, keeps the radio as it is (R81, R128). -/
theorem setupFault_idle {s : State} (h : s.radio.mode = .idle) :
    (setupFault s).radio = s.radio ∧ (setupFault s).history = s.history ++ [.cause .setupFault] :=
  recordCause_idle (s := { s with engine := { s.engine with link := .fault } }) h .setupFault

/-- A gap in which the radio agent keeps still changes nothing but the gaps to come. -/
theorem radioGap_quiet {s : State} {rest : List (List RadioAct)} (h : s.draws.gaps = [] :: rest) :
    radioGap s = { s with draws := { s.draws with gaps := rest } } := by
  simp [radioGap, drawGap, h, nextDraw_cons]

end Sys2Proof.Machine
end

