-- ==== Sys2Proof/Laws/Bus.lean ====
section
/-! SUPPORT. What each bus transaction leaves alone and what it adds to the traces of the history: the radio agent's
steps before it included (40_radio_driver.md R75–R80, R89). -/

namespace Sys2Proof.Machine

/-! ### Effects of the chip (R76, R77, R89) -/

@[simp] theorem pendingTxResolve_engine (s : State) : (pendingTxResolve s).engine = s.engine := by 
    unfold pendingTxResolve; split
    · by_cases h : (drawTxSent s).1 <;> simp [h]
    · rfl
@[simp] theorem pendingTxResolve_params (s : State) : (pendingTxResolve s).params = s.params := by 
    unfold pendingTxResolve; split
    · by_cases h : (drawTxSent s).1 <;> simp [h]
    · rfl
@[simp] theorem pendingTxResolve_inputs (s : State) : (pendingTxResolve s).inputs = s.inputs := by 
    unfold pendingTxResolve; split
    · by_cases h : (drawTxSent s).1 <;> simp [h]
    · rfl
@[simp] theorem pendingTxResolve_outcome (s : State) : (pendingTxResolve s).outcome = s.outcome := by 
    unfold pendingTxResolve; split
    · by_cases h : (drawTxSent s).1 <;> simp [h]
    · rfl
@[simp] theorem pendingTxResolve_refusedMark (s : State) : (pendingTxResolve s).refusedMark = s.refusedMark := by 
    unfold pendingTxResolve; split
    · by_cases h : (drawTxSent s).1 <;> simp [h]
    · rfl
@[simp] theorem pendingTxResolve_initOk (s : State) :
    (pendingTxResolve s).draws.initOk = s.draws.initOk := by 
    unfold pendingTxResolve; split
    · by_cases h : (drawTxSent s).1 <;> simp [h]
    · rfl
@[simp] theorem pendingTxResolve_busTrace (s : State) :
    busTrace (pendingTxResolve s).history = busTrace s.history := by 
    unfold pendingTxResolve; split
    · by_cases h : (drawTxSent s).1 <;> simp [h]
    · rfl
@[simp] theorem pendingTxResolve_causeTrace (s : State) :
    causeTrace (pendingTxResolve s).history = causeTrace s.history := by 
    unfold pendingTxResolve; split
    · by_cases h : (drawTxSent s).1 <;> simp [h]
    · rfl

@[simp] theorem chipStrobe_engine (st : Strobe) (s : State) : (chipStrobe st s).engine = s.engine := by cases st <;> simp [chipStrobe, setChipMode, chipReset]
@[simp] theorem chipStrobe_params (st : Strobe) (s : State) : (chipStrobe st s).params = s.params := by cases st <;> simp [chipStrobe, setChipMode, chipReset]
@[simp] theorem chipStrobe_inputs (st : Strobe) (s : State) : (chipStrobe st s).inputs = s.inputs := by cases st <;> simp [chipStrobe, setChipMode, chipReset]
@[simp] theorem chipStrobe_outcome (st : Strobe) (s : State) : (chipStrobe st s).outcome = s.outcome := by cases st <;> simp [chipStrobe, setChipMode, chipReset]
@[simp] theorem chipStrobe_refusedMark (st : Strobe) (s : State) : (chipStrobe st s).refusedMark = s.refusedMark := by cases st <;> simp [chipStrobe, setChipMode, chipReset]
@[simp] theorem chipStrobe_initOk (st : Strobe) (s : State) :
    (chipStrobe st s).draws.initOk = s.draws.initOk := by cases st <;> simp [chipStrobe, setChipMode, chipReset]
@[simp] theorem chipStrobe_busTrace (st : Strobe) (s : State) :
    busTrace (chipStrobe st s).history = busTrace s.history := by cases st <;> simp [chipStrobe, setChipMode, chipReset]
@[simp] theorem chipStrobe_causeTrace (st : Strobe) (s : State) :
    causeTrace (chipStrobe st s).history = causeTrace s.history := by cases st <;> simp [chipStrobe, setChipMode, chipReset]

@[simp] theorem writeRegEffect_engine (a : Nat) (v : Byte) (s : State) : (writeRegEffect a v s).engine = s.engine := by unfold writeRegEffect; split <;> [rfl; (split <;> rfl)]
@[simp] theorem writeRegEffect_params (a : Nat) (v : Byte) (s : State) : (writeRegEffect a v s).params = s.params := by unfold writeRegEffect; split <;> [rfl; (split <;> rfl)]
@[simp] theorem writeRegEffect_inputs (a : Nat) (v : Byte) (s : State) : (writeRegEffect a v s).inputs = s.inputs := by unfold writeRegEffect; split <;> [rfl; (split <;> rfl)]
@[simp] theorem writeRegEffect_outcome (a : Nat) (v : Byte) (s : State) : (writeRegEffect a v s).outcome = s.outcome := by unfold writeRegEffect; split <;> [rfl; (split <;> rfl)]
@[simp] theorem writeRegEffect_refusedMark (a : Nat) (v : Byte) (s : State) : (writeRegEffect a v s).refusedMark = s.refusedMark := by unfold writeRegEffect; split <;> [rfl; (split <;> rfl)]
@[simp] theorem writeRegEffect_initOk (a : Nat) (v : Byte) (s : State) :
    (writeRegEffect a v s).draws.initOk = s.draws.initOk := by unfold writeRegEffect; split <;> [rfl; (split <;> rfl)]
@[simp] theorem writeRegEffect_busTrace (a : Nat) (v : Byte) (s : State) :
    busTrace (writeRegEffect a v s).history = busTrace s.history := by unfold writeRegEffect; split <;> [rfl; (split <;> rfl)]
@[simp] theorem writeRegEffect_causeTrace (a : Nat) (v : Byte) (s : State) :
    causeTrace (writeRegEffect a v s).history = causeTrace s.history := by unfold writeRegEffect; split <;> [rfl; (split <;> rfl)]

@[simp] theorem burstRegEffect_engine (a : Nat) (l : List Byte) (s : State) : (burstRegEffect a l s).engine = s.engine := by
  induction l generalizing a s with
  | nil => rfl
  | cons v rest ih => simp [burstRegEffect, ih]
@[simp] theorem burstRegEffect_params (a : Nat) (l : List Byte) (s : State) : (burstRegEffect a l s).params = s.params := by
  induction l generalizing a s with
  | nil => rfl
  | cons v rest ih => simp [burstRegEffect, ih]
@[simp] theorem burstRegEffect_inputs (a : Nat) (l : List Byte) (s : State) : (burstRegEffect a l s).inputs = s.inputs := by
  induction l generalizing a s with
  | nil => rfl
  | cons v rest ih => simp [burstRegEffect, ih]
@[simp] theorem burstRegEffect_outcome (a : Nat) (l : List Byte) (s : State) : (burstRegEffect a l s).outcome = s.outcome := by
  induction l generalizing a s with
  | nil => rfl
  | cons v rest ih => simp [burstRegEffect, ih]
@[simp] theorem burstRegEffect_refusedMark (a : Nat) (l : List Byte) (s : State) : (burstRegEffect a l s).refusedMark = s.refusedMark := by
  induction l generalizing a s with
  | nil => rfl
  | cons v rest ih => simp [burstRegEffect, ih]
@[simp] theorem burstRegEffect_initOk (a : Nat) (l : List Byte) (s : State) : (burstRegEffect a l s).draws.initOk = s.draws.initOk := by
  induction l generalizing a s with
  | nil => rfl
  | cons v rest ih => simp [burstRegEffect, ih]
@[simp] theorem burstRegEffect_busTrace (a : Nat) (l : List Byte) (s : State) : busTrace (burstRegEffect a l s).history = busTrace s.history := by
  induction l generalizing a s with
  | nil => rfl
  | cons v rest ih => simp [burstRegEffect, ih]
@[simp] theorem burstRegEffect_causeTrace (a : Nat) (l : List Byte) (s : State) : causeTrace (burstRegEffect a l s).history = causeTrace s.history := by
  induction l generalizing a s with
  | nil => rfl
  | cons v rest ih => simp [burstRegEffect, ih]
@[simp] theorem burstWriteEffect_engine (a : Byte) (l : List Byte) (s : State) : (burstWriteEffect a l s).engine = s.engine := by unfold burstWriteEffect; split <;> simp
@[simp] theorem burstWriteEffect_params (a : Byte) (l : List Byte) (s : State) : (burstWriteEffect a l s).params = s.params := by unfold burstWriteEffect; split <;> simp
@[simp] theorem burstWriteEffect_inputs (a : Byte) (l : List Byte) (s : State) : (burstWriteEffect a l s).inputs = s.inputs := by unfold burstWriteEffect; split <;> simp
@[simp] theorem burstWriteEffect_outcome (a : Byte) (l : List Byte) (s : State) : (burstWriteEffect a l s).outcome = s.outcome := by unfold burstWriteEffect; split <;> simp
@[simp] theorem burstWriteEffect_refusedMark (a : Byte) (l : List Byte) (s : State) : (burstWriteEffect a l s).refusedMark = s.refusedMark := by unfold burstWriteEffect; split <;> simp
@[simp] theorem burstWriteEffect_initOk (a : Byte) (l : List Byte) (s : State) :
    (burstWriteEffect a l s).draws.initOk = s.draws.initOk := by unfold burstWriteEffect; split <;> simp
@[simp] theorem burstWriteEffect_busTrace (a : Byte) (l : List Byte) (s : State) :
    busTrace (burstWriteEffect a l s).history = busTrace s.history := by unfold burstWriteEffect; split <;> simp
@[simp] theorem burstWriteEffect_causeTrace (a : Byte) (l : List Byte) (s : State) :
    causeTrace (burstWriteEffect a l s).history = causeTrace s.history := by unfold burstWriteEffect; split <;> simp


/-! ### Bus transactions (R75–R80) -/

@[simp] theorem busStrobe_engine (st : Strobe) (s : State) : (busStrobe st s).engine = s.engine := by simp [busStrobe]
@[simp] theorem busStrobe_params (st : Strobe) (s : State) : (busStrobe st s).params = s.params := by simp [busStrobe]
@[simp] theorem busStrobe_inputs (st : Strobe) (s : State) : (busStrobe st s).inputs = s.inputs := by simp [busStrobe]
@[simp] theorem busStrobe_outcome (st : Strobe) (s : State) : (busStrobe st s).outcome = s.outcome := by simp [busStrobe]
@[simp] theorem busStrobe_refusedMark (st : Strobe) (s : State) : (busStrobe st s).refusedMark = s.refusedMark := by simp [busStrobe]
@[simp] theorem busStrobe_initOk (st : Strobe) (s : State) :
    (busStrobe st s).draws.initOk = s.draws.initOk := by simp [busStrobe]
@[simp] theorem busStrobe_busTrace (st : Strobe) (s : State) :
    busTrace (busStrobe st s).history = busTrace s.history ++ [.strobe st] := by simp [busStrobe]
@[simp] theorem busStrobe_causeTrace (st : Strobe) (s : State) :
    causeTrace (busStrobe st s).history = causeTrace s.history := by simp [busStrobe]

@[simp] theorem busWriteReg_engine (a v : Byte) (s : State) : (busWriteReg a v s).engine = s.engine := by simp [busWriteReg]
@[simp] theorem busWriteReg_params (a v : Byte) (s : State) : (busWriteReg a v s).params = s.params := by simp [busWriteReg]
@[simp] theorem busWriteReg_inputs (a v : Byte) (s : State) : (busWriteReg a v s).inputs = s.inputs := by simp [busWriteReg]
@[simp] theorem busWriteReg_outcome (a v : Byte) (s : State) : (busWriteReg a v s).outcome = s.outcome := by simp [busWriteReg]
@[simp] theorem busWriteReg_refusedMark (a v : Byte) (s : State) : (busWriteReg a v s).refusedMark = s.refusedMark := by simp [busWriteReg]
@[simp] theorem busWriteReg_initOk (a v : Byte) (s : State) :
    (busWriteReg a v s).draws.initOk = s.draws.initOk := by simp [busWriteReg]
@[simp] theorem busWriteReg_busTrace (a v : Byte) (s : State) :
    busTrace (busWriteReg a v s).history = busTrace s.history ++ [.writeReg a v] := by simp [busWriteReg]
@[simp] theorem busWriteReg_causeTrace (a v : Byte) (s : State) :
    causeTrace (busWriteReg a v s).history = causeTrace s.history := by simp [busWriteReg]

@[simp] theorem busBurstWrite_engine (a : Byte) (l : List Byte) (s : State) : (busBurstWrite a l s).engine = s.engine := by simp [busBurstWrite]
@[simp] theorem busBurstWrite_params (a : Byte) (l : List Byte) (s : State) : (busBurstWrite a l s).params = s.params := by simp [busBurstWrite]
@[simp] theorem busBurstWrite_inputs (a : Byte) (l : List Byte) (s : State) : (busBurstWrite a l s).inputs = s.inputs := by simp [busBurstWrite]
@[simp] theorem busBurstWrite_outcome (a : Byte) (l : List Byte) (s : State) : (busBurstWrite a l s).outcome = s.outcome := by simp [busBurstWrite]
@[simp] theorem busBurstWrite_refusedMark (a : Byte) (l : List Byte) (s : State) : (busBurstWrite a l s).refusedMark = s.refusedMark := by simp [busBurstWrite]
@[simp] theorem busBurstWrite_initOk (a : Byte) (l : List Byte) (s : State) :
    (busBurstWrite a l s).draws.initOk = s.draws.initOk := by simp [busBurstWrite]
@[simp] theorem busBurstWrite_busTrace (a : Byte) (l : List Byte) (s : State) :
    busTrace (busBurstWrite a l s).history = busTrace s.history ++ [.burstWrite a l] := by simp [busBurstWrite]
@[simp] theorem busBurstWrite_causeTrace (a : Byte) (l : List Byte) (s : State) :
    causeTrace (busBurstWrite a l s).history = causeTrace s.history := by simp [busBurstWrite]

@[simp] theorem busReadStatus_engine (a : Byte) (s : State) : (busReadStatus a s).2.engine = s.engine := by simp [busReadStatus]
@[simp] theorem busReadStatus_params (a : Byte) (s : State) : (busReadStatus a s).2.params = s.params := by simp [busReadStatus]
@[simp] theorem busReadStatus_inputs (a : Byte) (s : State) : (busReadStatus a s).2.inputs = s.inputs := by simp [busReadStatus]
@[simp] theorem busReadStatus_outcome (a : Byte) (s : State) : (busReadStatus a s).2.outcome = s.outcome := by simp [busReadStatus]
@[simp] theorem busReadStatus_refusedMark (a : Byte) (s : State) : (busReadStatus a s).2.refusedMark = s.refusedMark := by simp [busReadStatus]
@[simp] theorem busReadStatus_initOk (a : Byte) (s : State) :
    (busReadStatus a s).2.draws.initOk = s.draws.initOk := by simp [busReadStatus]
@[simp] theorem busReadStatus_busTrace (a : Byte) (s : State) :
    busTrace (busReadStatus a s).2.history = busTrace s.history ++ [.readStatus a (busReadStatus a s).1] := by simp [busReadStatus]
@[simp] theorem busReadStatus_causeTrace (a : Byte) (s : State) :
    causeTrace (busReadStatus a s).2.history = causeTrace s.history := by simp [busReadStatus]

@[simp] theorem takeRxBytes_engine (a : Byte) (n : Nat) (s : State) : (takeRxBytes a n s).2.engine = s.engine := by simp [takeRxBytes]
@[simp] theorem takeRxBytes_params (a : Byte) (n : Nat) (s : State) : (takeRxBytes a n s).2.params = s.params := by simp [takeRxBytes]
@[simp] theorem takeRxBytes_inputs (a : Byte) (n : Nat) (s : State) : (takeRxBytes a n s).2.inputs = s.inputs := by simp [takeRxBytes]
@[simp] theorem takeRxBytes_outcome (a : Byte) (n : Nat) (s : State) : (takeRxBytes a n s).2.outcome = s.outcome := by simp [takeRxBytes]
@[simp] theorem takeRxBytes_refusedMark (a : Byte) (n : Nat) (s : State) : (takeRxBytes a n s).2.refusedMark = s.refusedMark := by simp [takeRxBytes]
@[simp] theorem takeRxBytes_initOk (a : Byte) (n : Nat) (s : State) :
    (takeRxBytes a n s).2.draws.initOk = s.draws.initOk := by simp [takeRxBytes]
@[simp] theorem takeRxBytes_busTrace (a : Byte) (n : Nat) (s : State) :
    busTrace (takeRxBytes a n s).2.history = busTrace s.history ++ [.burstRead a (s.radio.rxfifo.take n)] := by simp [takeRxBytes]
@[simp] theorem takeRxBytes_causeTrace (a : Byte) (n : Nat) (s : State) :
    causeTrace (takeRxBytes a n s).2.history = causeTrace s.history := by simp [takeRxBytes]

@[simp] theorem busCsPulse_engine (pat : List CsItem) (s : State) : (busCsPulse pat s).engine = s.engine := by simp [busCsPulse]
@[simp] theorem busCsPulse_params (pat : List CsItem) (s : State) : (busCsPulse pat s).params = s.params := by simp [busCsPulse]
@[simp] theorem busCsPulse_inputs (pat : List CsItem) (s : State) : (busCsPulse pat s).inputs = s.inputs := by simp [busCsPulse]
@[simp] theorem busCsPulse_outcome (pat : List CsItem) (s : State) : (busCsPulse pat s).outcome = s.outcome := by simp [busCsPulse]
@[simp] theorem busCsPulse_refusedMark (pat : List CsItem) (s : State) : (busCsPulse pat s).refusedMark = s.refusedMark := by simp [busCsPulse]
@[simp] theorem busCsPulse_initOk (pat : List CsItem) (s : State) :
    (busCsPulse pat s).draws.initOk = s.draws.initOk := by simp [busCsPulse]
@[simp] theorem busCsPulse_busTrace (pat : List CsItem) (s : State) :
    busTrace (busCsPulse pat s).history = busTrace s.history ++ [.csPulse pat] := by simp [busCsPulse]
@[simp] theorem busCsPulse_causeTrace (pat : List CsItem) (s : State) :
    causeTrace (busCsPulse pat s).history = causeTrace s.history := by simp [busCsPulse]

@[simp] theorem busDelay_engine (us : U32) (s : State) : (busDelay us s).engine = s.engine := by simp [busDelay]
@[simp] theorem busDelay_params (us : U32) (s : State) : (busDelay us s).params = s.params := by simp [busDelay]
@[simp] theorem busDelay_inputs (us : U32) (s : State) : (busDelay us s).inputs = s.inputs := by simp [busDelay]
@[simp] theorem busDelay_outcome (us : U32) (s : State) : (busDelay us s).outcome = s.outcome := by simp [busDelay]
@[simp] theorem busDelay_refusedMark (us : U32) (s : State) : (busDelay us s).refusedMark = s.refusedMark := by simp [busDelay]
@[simp] theorem busDelay_initOk (us : U32) (s : State) :
    (busDelay us s).draws.initOk = s.draws.initOk := by simp [busDelay]
@[simp] theorem busDelay_busTrace (us : U32) (s : State) :
    busTrace (busDelay us s).history = busTrace s.history ++ [.delay us] := by simp [busDelay]
@[simp] theorem busDelay_causeTrace (us : U32) (s : State) :
    causeTrace (busDelay us s).history = causeTrace s.history := by simp [busDelay]


end Sys2Proof.Machine
end

