-- ==== Sys2Proof/Laws/Operands.lean ====
section
/-! SUPPORT. Byte order and frames as byte lists (00_scope.md R13, 20_memory.md R43, R44). -/

namespace Sys2Proof.Machine

/-- The number a little-endian word stands for (R13). -/
theorem le32_toNat (b0 b1 b2 b3 : Byte) :
    (le32 b0 b1 b2 b3).toNat = b0.toNat + 256 * b1.toNat + 65536 * b2.toNat + 16777216 * b3.toNat := by
  have h0 := b0.isLt
  have h1 := b1.isLt
  have h2 := b2.isLt
  have h3 := b3.isLt
  simp only [le32, BitVec.toNat_append]
  rw [← Nat.shiftLeft_add_eq_or_of_lt h2, ← Nat.shiftLeft_add_eq_or_of_lt h1, ← Nat.shiftLeft_add_eq_or_of_lt h0]
  simp only [Nat.shiftLeft_eq]
  omega

/-- Byte `k` of a word is `v / 256^k mod 256`. -/
theorem byteOf_toNat (v : U32) (k : Nat) : (byteOf v k).toNat = v.toNat / 2 ^ (8 * k) % 256 := by
  simp [byteOf, Nat.shiftRight_eq_div_pow]

theorem le32_byteOf (v : U32) : le32 (byteOf v 0) (byteOf v 1) (byteOf v 2) (byteOf v 3) = v := by
  apply BitVec.eq_of_toNat_eq
  have := v.isLt
  simp only [le32_toNat, byteOf_toNat]
  omega

theorem byteOf_le32 (b0 b1 b2 b3 : Byte) :
    byteOf (le32 b0 b1 b2 b3) 0 = b0 ∧ byteOf (le32 b0 b1 b2 b3) 1 = b1 ∧
      byteOf (le32 b0 b1 b2 b3) 2 = b2 ∧ byteOf (le32 b0 b1 b2 b3) 3 = b3 := by
  have h0 := b0.isLt
  have h1 := b1.isLt
  have h2 := b2.isLt
  have h3 := b3.isLt
  refine ⟨?_, ?_, ?_, ?_⟩ <;> apply BitVec.eq_of_toNat_eq <;> simp only [byteOf_toNat, le32_toNat] <;> omega

/-- The bytes of a word, little-endian, are the bytes it was made of. -/
@[simp] theorem bytesLe32_le32 (b0 b1 b2 b3 : Byte) : bytesLe32 (le32 b0 b1 b2 b3) = [b0, b1, b2, b3] := by
  obtain ⟨h0, h1, h2, h3⟩ := byteOf_le32 b0 b1 b2 b3
  simp [bytesLe32, h0, h1, h2, h3]

/-- A word is made of its bytes again. -/
theorem le32_bytes (v : U32) : ∃ b0 b1 b2 b3, bytesLe32 v = [b0, b1, b2, b3] ∧ v = le32 b0 b1 b2 b3 :=
  ⟨_, _, _, _, rfl, (le32_byteOf v).symm⟩

/-- A record is made of its PR bytes again (R64). -/
theorem recordOf_prBytes (r : PairingRecord) :
    recordOf (byteOf r.networkId 0) (byteOf r.networkId 1) (byteOf r.networkId 2) (byteOf r.networkId 3)
      r.mainType r.mainId r.ownId = r := by
  simp [recordOf, le32_byteOf]

/-- Byte `i` of the frame is byte `i` of the list (R44). -/
theorem frameOfBytes_getElem (l : List Byte) (i : Nat) (hi : i < 16) : (frameOfBytes l)[i] = l.getD i 0 := by
  interval_cases i <;> rfl

/-- Sixteen bytes are the bytes of their frame. -/
theorem frameOfBytes_toList_of_length {l : List Byte} (h : l.length = 16) : (frameOfBytes l).toList = l := by
  apply List.ext_getElem
  · simp [h]
  · intro i h1 h2
    have hi : i < 16 := h ▸ h2
    rw [Vector.getElem_toList, frameOfBytes_getElem l i hi, List.getD_eq_getElem _ _ h2]

/-- The bytes of a frame list back from the frame. -/
theorem frameOfBytes_toList {l : List Byte} (h : 16 ≤ l.length) : (frameOfBytes (l.take 16)).toList = l.take 16 :=
  frameOfBytes_toList_of_length (by simp [h])

theorem frameOfBytes_of_toList (f : Frame) : frameOfBytes f.toList = f := by
  ext i hi
  simp only [frameOfBytes]
  interval_cases i <;> simp

end Sys2Proof.Machine
end

