-- ==== Sys2Proof/Laws/Driver.lean ====
section
/-! SUPPORT. What each driver micro-operation does (40_radio_driver.md R81–R87), the radio agent's steps included. -/

namespace Sys2Proof.Machine

/-! ### Invariants of the radio that every transaction keeps -/

/-- The history only grows, the RX FIFO stays within its size, the register space stays canonical. -/
structure RadioKept (s u : State) : Prop where
  history : s.history <+: u.history
  params : u.params = s.params
  rxfifo_le : s.radio.rxfifo.length ≤ s.params.rxfifoCap → u.radio.rxfifo.length ≤ s.params.rxfifoCap
  cfg_wf : Memory.wf s.radio.cfg = true → Memory.wf u.radio.cfg = true

theorem RadioKept.refl (s : State) : RadioKept s s := ⟨List.prefix_rfl, rfl, id, id⟩

theorem RadioKept.trans {s t u : State} (h : RadioKept s t) (k : RadioKept t u) : RadioKept s u where
  history := h.history.trans k.history
  params := k.params.trans h.params
  rxfifo_le := fun e => by
    have := k.rxfifo_le
    rw [h.params] at this
    exact this (h.rxfifo_le e)
  cfg_wf := fun e => k.cfg_wf (h.cfg_wf e)

/-- An update that keeps history, parameters, RX FIFO and register space. -/
theorem RadioKept.of_eq {s u : State} (h1 : u.history = s.history) (h2 : u.params = s.params)
    (h3 : u.radio.rxfifo = s.radio.rxfifo) (h4 : u.radio.cfg = s.radio.cfg) : RadioKept s u :=
  ⟨h1 ▸ List.prefix_rfl, h2, h3 ▸ id, h4 ▸ id⟩

theorem logEvent_kept (ev : Event) (s : State) : RadioKept s (logEvent ev s) :=
  ⟨List.prefix_append _ _, rfl, id, id⟩

theorem radioGap_kept (s : State) : RadioKept s (radioGap s) :=
  ⟨(radioGap_air s).history, (radioGap_air s).params, (radioGap_air s).rxfifo_le, by simp⟩

theorem recordCause_kept (c : Cause) (s : State) : RadioKept s (recordCause c s) :=
  (radioGap_kept s).trans (logEvent_kept _ _)

theorem pendingTxResolve_kept (s : State) : RadioKept s (pendingTxResolve s) := by
  unfold pendingTxResolve
  split
  · constructor <;> simp
  · exact .refl s

theorem chipStrobe_kept (st : Strobe) (s : State) : RadioKept s (chipStrobe st s) := by
  cases st with
  | res => constructor <;> simp [chipStrobe, chipReset, memory_ofRegs_wf]
  | idle => exact (pendingTxResolve_kept s).trans (.of_eq rfl rfl rfl rfl)
  | rx => exact (pendingTxResolve_kept s).trans (.of_eq rfl rfl rfl rfl)
  | tx => exact .of_eq rfl rfl rfl rfl
  | ftx => exact .of_eq rfl rfl rfl rfl
  | frx => constructor <;> simp [chipStrobe]

theorem writeRegEffect_kept (a : Nat) (v : Byte) (s : State) : RadioKept s (writeRegEffect a v s) := by
  unfold writeRegEffect
  split
  · exact .of_eq rfl rfl rfl rfl
  · split
    · exact .of_eq rfl rfl rfl rfl
    · exact ⟨List.prefix_rfl, rfl, id, memory_write_wf _ _ _⟩

theorem burstRegEffect_kept (a : Nat) (l : List Byte) (s : State) : RadioKept s (burstRegEffect a l s) := by
  induction l generalizing a s with
  | nil => exact .refl s
  | cons v rest ih => exact (writeRegEffect_kept a v s).trans (ih _ _)

theorem burstWriteEffect_kept (a : Byte) (l : List Byte) (s : State) : RadioKept s (burstWriteEffect a l s) := by
  unfold burstWriteEffect
  split
  · exact .of_eq rfl rfl rfl rfl
  · exact burstRegEffect_kept _ _ _

theorem busStrobe_kept (st : Strobe) (s : State) : RadioKept s (busStrobe st s) :=
  ((radioGap_kept s).trans (logEvent_kept _ _)).trans (chipStrobe_kept _ _)

theorem busWriteReg_kept (a v : Byte) (s : State) : RadioKept s (busWriteReg a v s) :=
  ((radioGap_kept s).trans (logEvent_kept _ _)).trans (writeRegEffect_kept _ _ _)

theorem busBurstWrite_kept (a : Byte) (l : List Byte) (s : State) : RadioKept s (busBurstWrite a l s) :=
  ((radioGap_kept s).trans (logEvent_kept _ _)).trans (burstWriteEffect_kept _ _ _)

theorem busReadStatus_kept (a : Byte) (s : State) : RadioKept s (busReadStatus a s).2 := by
  refine ((radioGap_kept s).trans ?_).trans (logEvent_kept _ _)
  exact .of_eq rfl rfl rfl rfl

theorem takeRxBytes_kept (a : Byte) (n : Nat) (s : State) : RadioKept s (takeRxBytes a n s).2 := by
  refine RadioKept.trans (t := { s with radio := { s.radio with rxfifo := s.radio.rxfifo.drop n } }) ?_
    (logEvent_kept _ _)
  refine ⟨List.prefix_rfl, rfl, fun h => ?_, id⟩
  simp only [List.length_drop]
  omega

theorem busCsPulse_kept (pat : List CsItem) (s : State) : RadioKept s (busCsPulse pat s) :=
  (radioGap_kept s).trans (logEvent_kept _ _)

theorem busDelay_kept (us : U32) (s : State) : RadioKept s (busDelay us s) :=
  (radioGap_kept s).trans (logEvent_kept _ _)

theorem setModeIdle_kept (s : State) : RadioKept s (setModeIdle s) :=
  (busStrobe_kept _ _).trans (busDelay_kept _ _)

theorem setModeReceive_kept (s : State) : RadioKept s (setModeReceive s) :=
  (busStrobe_kept _ _).trans (busDelay_kept _ _)

theorem setModeTransmit_kept (s : State) : RadioKept s (setModeTransmit s) :=
  (busStrobe_kept _ _).trans (busDelay_kept _ _)

theorem setAddress_kept (nid : U32) (s : State) : RadioKept s (setAddress nid s) := busWriteReg_kept _ _ _

theorem writeTxPayload_kept (f : Frame) (s : State) : RadioKept s (writeTxPayload f s) :=
  ((setModeIdle_kept s).trans (busStrobe_kept _ _)).trans (busBurstWrite_kept _ _ _)

theorem configureRadio_kept (s : State) : RadioKept s (configureRadio s) :=
  (((busCsPulse_kept _ s).trans (busStrobe_kept .res _)).trans (busBurstWrite_kept _ _ _)).trans
    (busWriteReg_kept _ _ _)

theorem bringUp_kept (s : State) : RadioKept s (bringUp s).2 :=
  (configureRadio_kept s).trans (.of_eq rfl rfl rfl rfl)

/-! ### Frames and traces -/

@[simp] theorem setModeIdle_engine (s : State) : (setModeIdle s).engine = s.engine := by simp [setModeIdle]
@[simp] theorem setModeIdle_params (s : State) : (setModeIdle s).params = s.params := by simp [setModeIdle]
@[simp] theorem setModeIdle_inputs (s : State) : (setModeIdle s).inputs = s.inputs := by simp [setModeIdle]
@[simp] theorem setModeIdle_outcome (s : State) : (setModeIdle s).outcome = s.outcome := by simp [setModeIdle]
@[simp] theorem setModeIdle_refusedMark (s : State) : (setModeIdle s).refusedMark = s.refusedMark := by simp [setModeIdle]
@[simp] theorem setModeIdle_initOk (s : State) :
    (setModeIdle s).draws.initOk = s.draws.initOk := by simp [setModeIdle]
@[simp] theorem setModeIdle_busTrace (s : State) :
    busTrace (setModeIdle s).history = busTrace s.history ++ [.strobe .idle, .delay s.params.settleUs] := by simp [setModeIdle]
@[simp] theorem setModeIdle_causeTrace (s : State) :
    causeTrace (setModeIdle s).history = causeTrace s.history := by simp [setModeIdle]

@[simp] theorem setModeReceive_engine (s : State) : (setModeReceive s).engine = s.engine := by simp [setModeReceive]
@[simp] theorem setModeReceive_params (s : State) : (setModeReceive s).params = s.params := by simp [setModeReceive]
@[simp] theorem setModeReceive_inputs (s : State) : (setModeReceive s).inputs = s.inputs := by simp [setModeReceive]
@[simp] theorem setModeReceive_outcome (s : State) : (setModeReceive s).outcome = s.outcome := by simp [setModeReceive]
@[simp] theorem setModeReceive_refusedMark (s : State) : (setModeReceive s).refusedMark = s.refusedMark := by simp [setModeReceive]
@[simp] theorem setModeReceive_initOk (s : State) :
    (setModeReceive s).draws.initOk = s.draws.initOk := by simp [setModeReceive]
@[simp] theorem setModeReceive_busTrace (s : State) :
    busTrace (setModeReceive s).history = busTrace s.history ++ [.strobe .rx, .delay s.params.settleUs] := by simp [setModeReceive]
@[simp] theorem setModeReceive_causeTrace (s : State) :
    causeTrace (setModeReceive s).history = causeTrace s.history := by simp [setModeReceive]

@[simp] theorem setModeTransmit_engine (s : State) : (setModeTransmit s).engine = s.engine := by simp [setModeTransmit]
@[simp] theorem setModeTransmit_params (s : State) : (setModeTransmit s).params = s.params := by simp [setModeTransmit]
@[simp] theorem setModeTransmit_inputs (s : State) : (setModeTransmit s).inputs = s.inputs := by simp [setModeTransmit]
@[simp] theorem setModeTransmit_outcome (s : State) : (setModeTransmit s).outcome = s.outcome := by simp [setModeTransmit]
@[simp] theorem setModeTransmit_refusedMark (s : State) : (setModeTransmit s).refusedMark = s.refusedMark := by simp [setModeTransmit]
@[simp] theorem setModeTransmit_initOk (s : State) :
    (setModeTransmit s).draws.initOk = s.draws.initOk := by simp [setModeTransmit]
@[simp] theorem setModeTransmit_busTrace (s : State) :
    busTrace (setModeTransmit s).history = busTrace s.history ++ [.strobe .tx, .delay s.params.settleUs] := by simp [setModeTransmit]
@[simp] theorem setModeTransmit_causeTrace (s : State) :
    causeTrace (setModeTransmit s).history = causeTrace s.history := by simp [setModeTransmit]

@[simp] theorem setTxAddress_engine (nid : U32) (s : State) : (setTxAddress nid s).engine = s.engine := by simp [setTxAddress, setAddress]
@[simp] theorem setTxAddress_params (nid : U32) (s : State) : (setTxAddress nid s).params = s.params := by simp [setTxAddress, setAddress]
@[simp] theorem setTxAddress_inputs (nid : U32) (s : State) : (setTxAddress nid s).inputs = s.inputs := by simp [setTxAddress, setAddress]
@[simp] theorem setTxAddress_outcome (nid : U32) (s : State) : (setTxAddress nid s).outcome = s.outcome := by simp [setTxAddress, setAddress]
@[simp] theorem setTxAddress_refusedMark (nid : U32) (s : State) : (setTxAddress nid s).refusedMark = s.refusedMark := by simp [setTxAddress, setAddress]
@[simp] theorem setTxAddress_initOk (nid : U32) (s : State) :
    (setTxAddress nid s).draws.initOk = s.draws.initOk := by simp [setTxAddress, setAddress]
@[simp] theorem setTxAddress_busTrace (nid : U32) (s : State) :
    busTrace (setTxAddress nid s).history = busTrace s.history ++ [.writeReg s.params.regAddr (lowByte nid)] := by simp [setTxAddress, setAddress]
@[simp] theorem setTxAddress_causeTrace (nid : U32) (s : State) :
    causeTrace (setTxAddress nid s).history = causeTrace s.history := by simp [setTxAddress, setAddress]

@[simp] theorem setRxAddress_engine (nid : U32) (s : State) : (setRxAddress nid s).engine = s.engine := by simp [setRxAddress, setAddress]
@[simp] theorem setRxAddress_params (nid : U32) (s : State) : (setRxAddress nid s).params = s.params := by simp [setRxAddress, setAddress]
@[simp] theorem setRxAddress_inputs (nid : U32) (s : State) : (setRxAddress nid s).inputs = s.inputs := by simp [setRxAddress, setAddress]
@[simp] theorem setRxAddress_outcome (nid : U32) (s : State) : (setRxAddress nid s).outcome = s.outcome := by simp [setRxAddress, setAddress]
@[simp] theorem setRxAddress_refusedMark (nid : U32) (s : State) : (setRxAddress nid s).refusedMark = s.refusedMark := by simp [setRxAddress, setAddress]
@[simp] theorem setRxAddress_initOk (nid : U32) (s : State) :
    (setRxAddress nid s).draws.initOk = s.draws.initOk := by simp [setRxAddress, setAddress]
@[simp] theorem setRxAddress_busTrace (nid : U32) (s : State) :
    busTrace (setRxAddress nid s).history = busTrace s.history ++ [.writeReg s.params.regAddr (lowByte nid)] := by simp [setRxAddress, setAddress]
@[simp] theorem setRxAddress_causeTrace (nid : U32) (s : State) :
    causeTrace (setRxAddress nid s).history = causeTrace s.history := by simp [setRxAddress, setAddress]

@[simp] theorem writeTxPayload_engine (f : Frame) (s : State) : (writeTxPayload f s).engine = s.engine := by simp [writeTxPayload]
@[simp] theorem writeTxPayload_params (f : Frame) (s : State) : (writeTxPayload f s).params = s.params := by simp [writeTxPayload]
@[simp] theorem writeTxPayload_inputs (f : Frame) (s : State) : (writeTxPayload f s).inputs = s.inputs := by simp [writeTxPayload]
@[simp] theorem writeTxPayload_outcome (f : Frame) (s : State) : (writeTxPayload f s).outcome = s.outcome := by simp [writeTxPayload]
@[simp] theorem writeTxPayload_refusedMark (f : Frame) (s : State) : (writeTxPayload f s).refusedMark = s.refusedMark := by simp [writeTxPayload]
@[simp] theorem writeTxPayload_initOk (f : Frame) (s : State) :
    (writeTxPayload f s).draws.initOk = s.draws.initOk := by simp [writeTxPayload]
@[simp] theorem writeTxPayload_busTrace (f : Frame) (s : State) :
    busTrace (writeTxPayload f s).history = busTrace s.history ++ [.strobe .idle, .delay s.params.settleUs, .strobe .ftx, .burstWrite s.params.regTxfifo f.toList] := by simp [writeTxPayload]
@[simp] theorem writeTxPayload_causeTrace (f : Frame) (s : State) :
    causeTrace (writeTxPayload f s).history = causeTrace s.history := by simp [writeTxPayload]


/-! ### The mode and the FIFOs -/

/-- A transaction that follows an idle chip finds it as it was. -/
theorem busDelay_of_idle {us : U32} {s : State} (h : s.radio.mode = .idle) : (busDelay us s).radio = s.radio := by
  simp [busDelay, (radioGap_idle h).1]

theorem chipStrobe_idle_mode (s : State) : (chipStrobe .idle s).radio.mode = .idle := rfl

theorem busStrobe_idle_mode (s : State) : (busStrobe .idle s).radio.mode = .idle := rfl

theorem setModeIdle_radio (s : State) : (setModeIdle s).radio = (busStrobe .idle s).radio := by
  unfold setModeIdle
  exact busDelay_of_idle rfl

/-- After `set_mode_idle` the chip is idle, whatever the radio agent does (R82). -/
@[simp] theorem setModeIdle_mode (s : State) : (setModeIdle s).radio.mode = .idle := by
  rw [setModeIdle_radio]; rfl

@[simp] theorem pendingTxResolve_regs (s : State) :
    (pendingTxResolve s).radio.addr = s.radio.addr ∧ (pendingTxResolve s).radio.pktlen = s.radio.pktlen ∧
      (pendingTxResolve s).radio.cfg = s.radio.cfg ∧ (pendingTxResolve s).radio.rxfifo = s.radio.rxfifo := by
  unfold pendingTxResolve
  split <;> simp

/-- No strobe but `S_RES` touches the chip's registers (R89). -/
theorem busStrobe_regs {st : Strobe} (h : st ≠ .res) (s : State) :
    (busStrobe st s).radio.addr = s.radio.addr ∧ (busStrobe st s).radio.pktlen = s.radio.pktlen ∧
      (busStrobe st s).radio.cfg = s.radio.cfg := by
  cases st with
  | res => exact absurd rfl h
  | idle | rx => simp [busStrobe, chipStrobe, setChipMode]
  | tx | ftx | frx => simp [busStrobe, chipStrobe, setChipMode]

theorem busDelay_regs (us : U32) (s : State) :
    (busDelay us s).radio.addr = s.radio.addr ∧ (busDelay us s).radio.pktlen = s.radio.pktlen ∧
      (busDelay us s).radio.cfg = s.radio.cfg := by simp [busDelay]

@[simp] theorem setModeIdle_regs (s : State) :
    (setModeIdle s).radio.addr = s.radio.addr ∧ (setModeIdle s).radio.pktlen = s.radio.pktlen ∧
      (setModeIdle s).radio.cfg = s.radio.cfg := by
  rw [setModeIdle_radio]; exact busStrobe_regs (by decide) s

@[simp] theorem setModeReceive_regs (s : State) :
    (setModeReceive s).radio.addr = s.radio.addr ∧ (setModeReceive s).radio.pktlen = s.radio.pktlen ∧
      (setModeReceive s).radio.cfg = s.radio.cfg := by
  have h := busStrobe_regs (st := .rx) (by decide) s
  have k := busDelay_regs s.params.settleUs (busStrobe .rx s)
  exact ⟨k.1.trans h.1, k.2.1.trans h.2.1, k.2.2.trans h.2.2⟩

@[simp] theorem setModeTransmit_regs (s : State) :
    (setModeTransmit s).radio.addr = s.radio.addr ∧ (setModeTransmit s).radio.pktlen = s.radio.pktlen ∧
      (setModeTransmit s).radio.cfg = s.radio.cfg := by
  have h := busStrobe_regs (st := .tx) (by decide) s
  have k := busDelay_regs s.params.settleUs (busStrobe .tx s)
  exact ⟨k.1.trans h.1, k.2.1.trans h.2.1, k.2.2.trans h.2.2⟩

/-- `set_address` writes the filter and nothing else of the chip's registers (R85, R166). -/
@[simp] theorem setAddress_regs (nid : U32) (s : State) :
    (setAddress nid s).radio.addr = lowByte nid ∧ (setAddress nid s).radio.pktlen = s.radio.pktlen ∧
      (setAddress nid s).radio.cfg = s.radio.cfg := by
  simp [setAddress, busWriteReg, writeRegEffect]

/-- `write_tx_payload` leaves the chip idle with exactly the frame in the TX FIFO (R86). -/
theorem writeTxPayload_radio (f : Frame) (s : State) :
    (writeTxPayload f s).radio = { (setModeIdle s).radio with txfifo := f.toList } := by
  have h1 : (busStrobe .ftx (setModeIdle s)).radio = { (setModeIdle s).radio with txfifo := [] } := by
    simp [busStrobe, chipStrobe, (radioGap_idle (setModeIdle_mode s)).1]
  have h2 : (busStrobe .ftx (setModeIdle s)).radio.mode = .idle := by rw [h1]; exact setModeIdle_mode s
  simp [writeTxPayload, busBurstWrite, burstWriteEffect, (radioGap_idle h2).1, h1]

/-- The status byte shows the count of the RX FIFO, wherever some byte does (R41, R78). -/
theorem statusShowing_count {p : Params} (hp : p.wf = true) {n : Nat} (hn : n ≤ p.rxfifoCap) (raw : Byte) :
    p.rxCount (statusShowing p n raw) = n := by
  simp only [Params.wf, Bool.and_eq_true, decide_eq_true_eq, List.all_eq_true] at hp
  obtain ⟨⟨-, hlen⟩, hall⟩ := hp
  unfold statusShowing
  split
  · assumption
  · have hmem := hall n (by simp; omega)
    rw [List.contains_iff_mem] at hmem
    obtain ⟨k, hk, hget⟩ := List.getElem_of_mem hmem
    cases hf : ((List.range 256).map (BitVec.ofNat 8)).find? (fun b => decide (p.rxCount b = n)) with
    | some b =>
      have := List.find?_some hf
      simpa using this
    | none =>
      exfalso
      rw [List.find?_eq_none] at hf
      have := hf (BitVec.ofNat 8 k) (List.mem_map.2 ⟨k, by simp; omega, rfl⟩)
      apply this
      simp only [decide_eq_true_eq, Params.rxCount, BitVec.toNat_ofNat]
      rw [Nat.mod_eq_of_lt (by omega), List.getD_eq_getElem _ _ hk]
      exact hget

end Sys2Proof.Machine
end

