-- ==== Sys2Proof/Laws/Quiet.lean ====
section
/-! SUPPORT. What each transaction does exactly while the radio agent keeps still (00_scope.md R12), and that it uses up
one of the quiet gaps. -/

namespace Sys2Proof.Machine

/-- The gaps to come are those of another state: quiet is a matter of the draws alone. -/
theorem State.quiet_congr {n : Nat} {s u : State} (h : s.quiet n) (e : u.draws.gaps = s.draws.gaps) : u.quiet n := by
  obtain ⟨rest, hr⟩ := h
  exact ⟨rest, e.trans hr⟩

theorem State.quiet_mono {n m : Nat} {s : State} (h : s.quiet n) (hm : m ≤ n) : s.quiet m := by
  obtain ⟨rest, hr⟩ := h
  refine ⟨List.replicate (n - m) [] ++ rest, ?_⟩
  rw [hr, ← List.append_assoc, List.replicate_append_replicate]
  congr 2
  omega

/-- A quiet gap leaves the radio and the history as they are. -/
theorem quiet_radioGap {n : Nat} {s : State} (h : s.quiet (n + 1)) :
    (radioGap s).quiet n ∧ (radioGap s).radio = s.radio ∧ (radioGap s).history = s.history := by
  obtain ⟨rest, hr⟩ := h
  have e : s.draws.gaps = [] :: (List.replicate n [] ++ rest) := by rw [hr]; rfl
  rw [radioGap_quiet e]
  exact ⟨⟨rest, rfl⟩, rfl, rfl⟩

@[simp] theorem pendingTxResolve_gaps (s : State) : (pendingTxResolve s).draws.gaps = s.draws.gaps := by
  unfold pendingTxResolve
  split <;> simp

@[simp] theorem chipStrobe_gaps (st : Strobe) (s : State) : (chipStrobe st s).draws.gaps = s.draws.gaps := by
  cases st <;> simp [chipStrobe, setChipMode, chipReset]

@[simp] theorem writeRegEffect_gaps (a : Nat) (v : Byte) (s : State) :
    (writeRegEffect a v s).draws.gaps = s.draws.gaps := by
  unfold writeRegEffect
  split <;> [rfl; (split <;> rfl)]

@[simp] theorem burstRegEffect_gaps (a : Nat) (l : List Byte) (s : State) :
    (burstRegEffect a l s).draws.gaps = s.draws.gaps := by
  induction l generalizing a s with
  | nil => rfl
  | cons v rest ih => simp [burstRegEffect, ih]

@[simp] theorem burstWriteEffect_gaps (a : Byte) (l : List Byte) (s : State) :
    (burstWriteEffect a l s).draws.gaps = s.draws.gaps := by
  unfold burstWriteEffect
  split <;> simp

theorem quiet_busStrobe {n : Nat} {s : State} (h : s.quiet (n + 1)) (st : Strobe) : (busStrobe st s).quiet n :=
  State.quiet_congr (quiet_radioGap h).1 (by simp [busStrobe])

theorem quiet_busWriteReg {n : Nat} {s : State} (h : s.quiet (n + 1)) (a v : Byte) : (busWriteReg a v s).quiet n :=
  State.quiet_congr (quiet_radioGap h).1 (by simp [busWriteReg])

theorem quiet_busBurstWrite {n : Nat} {s : State} (h : s.quiet (n + 1)) (a : Byte) (l : List Byte) :
    (busBurstWrite a l s).quiet n := State.quiet_congr (quiet_radioGap h).1 (by simp [busBurstWrite])

theorem quiet_busDelay {n : Nat} {s : State} (h : s.quiet (n + 1)) (us : U32) :
    (busDelay us s).quiet n ∧ (busDelay us s).radio = s.radio :=
  ⟨State.quiet_congr (quiet_radioGap h).1 (by simp [busDelay]), by simp [busDelay, (quiet_radioGap h).2.1]⟩

/-- The strobes' effect on mode and FIFOs in a quiet gap (R89). -/
theorem quiet_busStrobe_radio {n : Nat} {s : State} (h : s.quiet (n + 1)) (st : Strobe) (hst : st ≠ .res) :
    (busStrobe st s).radio.mode = (match st with
      | .idle => .idle
      | .rx => .rx
      | .tx => .tx
      | .res | .ftx | .frx => s.radio.mode) ∧
    (st ≠ .frx → (busStrobe st s).radio.rxfifo = s.radio.rxfifo) := by
  obtain ⟨-, hr, -⟩ := quiet_radioGap h
  cases st with
  | res => exact absurd rfl hst
  | idle | rx | tx | ftx | frx => simp [busStrobe, chipStrobe, setChipMode, hr]

/-- An idle or receive strobe and its settle delay while the agent keeps still (R82, R83, R89): a frame still waiting in
TX is sent or cut off between the two, and nothing else of the radio changes but the mode. -/
theorem quiet_strobe_settle {s : State} (h : s.quiet 2) {st : Strobe} {m : RadioMode}
    (hm : (st = .idle ∧ m = .idle) ∨ (st = .rx ∧ m = .rx)) (us : U32) :
    ∃ l, pendingResolved s.radio l ∧
      (busDelay us (busStrobe st s)).history = s.history ++ .bus (.strobe st) :: l ++ [.bus (.delay us)] ∧
      (busDelay us (busStrobe st s)).radio =
        { s.radio with mode := m, txfifo := if l = [] then s.radio.txfifo else [] } := by
  obtain ⟨-, g2, g3⟩ := quiet_radioGap (n := 1) h
  obtain ⟨-, e2, e3⟩ := quiet_radioGap (n := 0) (quiet_busStrobe (n := 1) h st)
  have hr : (busDelay us (busStrobe st s)).radio = (busStrobe st s).radio := by simp [busDelay, e2]
  have hh : (busDelay us (busStrobe st s)).history = (busStrobe st s).history ++ [.bus (.delay us)] := by
    simp [busDelay, e3, logBus]
  rw [hr, hh]
  by_cases hp : s.radio.mode = .tx ∧ s.radio.txfifo ≠ []
  · refine ⟨[if (drawTxSent (logBus (.strobe st) (radioGap s))).1 then .airTx s.radio.txfifo else .lost], ?_, ?_, ?_⟩
    · simp only [pendingResolved, if_pos hp]
      split <;> simp
    all_goals
      obtain ⟨rfl, rfl⟩ | ⟨rfl, rfl⟩ := hm <;>
        simp [busStrobe, chipStrobe, setChipMode, pendingTxResolve, g2, hp, logBus, g3, drawTxSent]
  · refine ⟨[], by simp only [pendingResolved, if_neg hp], ?_, ?_⟩
    all_goals
      obtain ⟨rfl, rfl⟩ | ⟨rfl, rfl⟩ := hm <;>
        simp [busStrobe, chipStrobe, setChipMode, pendingTxResolve, g2, hp, logBus, g3]

theorem quiet_setModeIdle {n : Nat} {s : State} (h : s.quiet (n + 2)) :
    (setModeIdle s).quiet n ∧ (setModeIdle s).radio.rxfifo = s.radio.rxfifo := by
  refine ⟨(quiet_busDelay (quiet_busStrobe h .idle) _).1, ?_⟩
  rw [setModeIdle_radio]
  exact (quiet_busStrobe_radio h .idle (by decide)).2 (by decide)

theorem quiet_writeTxPayload {n : Nat} {s : State} (h : s.quiet (n + 4)) (f : Frame) :
    (writeTxPayload f s).quiet n ∧ (writeTxPayload f s).radio.rxfifo = s.radio.rxfifo := by
  obtain ⟨h1, h2⟩ := quiet_setModeIdle (n := n + 2) h
  exact ⟨quiet_busBurstWrite (quiet_busStrobe h1 .ftx) _ _, by rw [writeTxPayload_radio]; exact h2⟩

/-- While the agent keeps still, `set_mode_transmit` changes the mode and nothing else of the radio (R84). -/
theorem quiet_setModeTransmit {n : Nat} {s : State} (h : s.quiet (n + 2)) :
    (setModeTransmit s).quiet n ∧ (setModeTransmit s).radio = { s.radio with mode := .tx } := by
  obtain ⟨h1, h2⟩ := quiet_busDelay (quiet_busStrobe h .tx) s.params.settleUs
  refine ⟨h1, h2.trans ?_⟩
  simp [busStrobe, chipStrobe, setChipMode, (quiet_radioGap h).2.1]

/-- While the agent keeps still, `set_mode_receive` leaves the chip in RX with the bytes it held (R83). -/
theorem quiet_setModeReceive {n : Nat} {s : State} (h : s.quiet (n + 2)) :
    (setModeReceive s).quiet n ∧ (setModeReceive s).radio.mode = .rx ∧
      (setModeReceive s).radio.rxfifo = s.radio.rxfifo := by
  obtain ⟨h1, h2⟩ := quiet_busDelay (quiet_busStrobe h .rx) s.params.settleUs
  have h3 := quiet_busStrobe_radio h .rx (by decide)
  refine ⟨h1, ?_, ?_⟩
  · exact (congrArg Radio.mode h2).trans h3.1
  · exact (congrArg Radio.rxfifo h2).trans (h3.2 (by decide))

theorem quiet_setAddress {n : Nat} {s : State} (h : s.quiet (n + 1)) (nid : U32) :
    (setAddress nid s).quiet n ∧ (setAddress nid s).radio = { s.radio with addr := lowByte nid } := by
  refine ⟨quiet_busWriteReg h _ _, ?_⟩
  simp [setAddress, busWriteReg, writeRegEffect, (quiet_radioGap h).2.1]

end Sys2Proof.Machine
end

