-- ==== Sys2Proof/Laws/Protocol.lean ====
section
/-! SUPPORT. What the engine's helpers do (42_protocol_engine.md R105–R109), the poll (40_radio_driver.md R87) and the
bring-up (R81): one lemma for each that says everything it can do to the engine, the chip's registers and the traces. -/

namespace Sys2Proof.Machine

/-! ### The bytes in the RX FIFO stay in front -/

theorem busStrobe_rxfifo {st : Strobe} (h1 : st ≠ .res) (h2 : st ≠ .frx) (s : State) :
    s.radio.rxfifo <+: (busStrobe st s).radio.rxfifo := by
  have := (radioGap_air s).rxfifo
  cases st with
  | res => exact absurd rfl h1
  | frx => exact absurd rfl h2
  | idle | rx => simpa [busStrobe, chipStrobe, setChipMode] using this
  | tx | ftx => simpa [busStrobe, chipStrobe, setChipMode] using this

theorem busDelay_rxfifo (us : U32) (s : State) : s.radio.rxfifo <+: (busDelay us s).radio.rxfifo := by
  simpa [busDelay] using (radioGap_air s).rxfifo

theorem setAddress_rxfifo (nid : U32) (s : State) : s.radio.rxfifo <+: (setAddress nid s).radio.rxfifo := by
  simpa [setAddress, busWriteReg, writeRegEffect] using (radioGap_air s).rxfifo

theorem setModeIdle_rxfifo (s : State) : s.radio.rxfifo <+: (setModeIdle s).radio.rxfifo := by
  rw [setModeIdle_radio]
  exact busStrobe_rxfifo (by decide) (by decide) s

theorem setModeReceive_rxfifo (s : State) : s.radio.rxfifo <+: (setModeReceive s).radio.rxfifo :=
  (busStrobe_rxfifo (st := .rx) (by decide) (by decide) s).trans (busDelay_rxfifo _ _)

theorem setModeTransmit_rxfifo (s : State) : s.radio.rxfifo <+: (setModeTransmit s).radio.rxfifo :=
  (busStrobe_rxfifo (st := .tx) (by decide) (by decide) s).trans (busDelay_rxfifo _ _)

theorem writeTxPayload_rxfifo (f : Frame) (s : State) : s.radio.rxfifo <+: (writeTxPayload f s).radio.rxfifo := by
  rw [writeTxPayload_radio]
  exact setModeIdle_rxfifo s

/-! ### Sending (R108) -/

/-- `resend` sends the buffer as it stands: only `opstate` of the engine changes, and no chip register. -/
theorem resend_spec (s : State) :
    (resend s).engine = { s.engine with opstate := .transmitting } ∧ (resend s).params = s.params ∧
    (resend s).inputs = s.inputs ∧ (resend s).refusedMark = s.refusedMark ∧
    busTrace (resend s).history = busTrace s.history ++ sendEvents s.params s.engine.txBuf ∧
    causeTrace (resend s).history = causeTrace s.history ∧
    (resend s).radio.addr = s.radio.addr ∧ (resend s).radio.pktlen = s.radio.pktlen ∧
    (resend s).radio.cfg = s.radio.cfg := by
  simp [resend, sendEvents, writeTxPayload_radio]

theorem resend_rxfifo (s : State) : s.radio.rxfifo <+: (resend s).radio.rxfifo :=
  (writeTxPayload_rxfifo s.engine.txBuf s).trans (setModeTransmit_rxfifo _)

theorem resend_kept (s : State) : RadioKept s (resend s) :=
  ((writeTxPayload_kept s.engine.txBuf s).trans (setModeTransmit_kept _)).trans (.of_eq rfl rfl rfl rfl)

/-- After a quiet `resend` the chip is in TX with the frame in its FIFO (R84, R86). -/
theorem quiet_resend {n : Nat} {s : State} (h : s.quiet (n + 6)) :
    (resend s).radio.mode = .tx ∧ (resend s).radio.txfifo = s.engine.txBuf.toList ∧
      (resend s).radio.rxfifo = s.radio.rxfifo := by
  obtain ⟨h1, h2⟩ := quiet_writeTxPayload (n := n + 2) h s.engine.txBuf
  have h3 := (quiet_setModeTransmit h1).2
  have e : (resend s).radio = (setModeTransmit (writeTxPayload s.engine.txBuf s)).radio := rfl
  rw [e, h3]
  exact ⟨rfl, by simp [writeTxPayload_radio], h2⟩

/-- `send` is `resend` of a new buffer. -/
theorem send_eq (f : Frame) (s : State) : send f s = resend { s with engine := { s.engine with txBuf := f } } := rfl

theorem send_kept (f : Frame) (s : State) : RadioKept s (send f s) :=
  (RadioKept.of_eq (s := s) (u := { s with engine := { s.engine with txBuf := f } }) rfl rfl rfl rfl).trans (resend_kept _)

/-! ### The shared filter (R107) -/

/-- `program_address` writes the filter twice and nothing else. -/
theorem programAddress_spec (nid : U32) (s : State) :
    (programAddress nid s).engine = s.engine ∧ (programAddress nid s).params = s.params ∧
    (programAddress nid s).inputs = s.inputs ∧ (programAddress nid s).refusedMark = s.refusedMark ∧
    busTrace (programAddress nid s).history = busTrace s.history ++ addressEvents s.params nid ∧
    causeTrace (programAddress nid s).history = causeTrace s.history ∧
    (programAddress nid s).radio.addr = nid.extractLsb' 0 8 ∧
    (programAddress nid s).radio.pktlen = s.radio.pktlen ∧ (programAddress nid s).radio.cfg = s.radio.cfg := by
  refine ⟨?_, ?_, ?_, ?_, ?_, ?_, ?_, ?_, ?_⟩ <;>
    simp [programAddress, addressEvents, setTxAddress, setRxAddress, setAddress, busWriteReg, writeRegEffect, lowByte,
      byteOf]

theorem programAddress_rxfifo (nid : U32) (s : State) : s.radio.rxfifo <+: (programAddress nid s).radio.rxfifo :=
  (setAddress_rxfifo nid s).trans (setAddress_rxfifo nid _)

theorem programAddress_kept (nid : U32) (s : State) : RadioKept s (programAddress nid s) :=
  (setAddress_kept nid s).trans (setAddress_kept nid _)

theorem quiet_programAddress {n : Nat} {s : State} (h : s.quiet (n + 2)) (nid : U32) :
    (programAddress nid s).quiet n ∧ (programAddress nid s).radio.rxfifo = s.radio.rxfifo := by
  obtain ⟨h1, h2⟩ := quiet_setAddress (n := n + 1) h nid
  obtain ⟨h3, h4⟩ := quiet_setAddress h1 nid
  refine ⟨h3, ?_⟩
  have e : (programAddress nid s).radio = _ := h4
  rw [e]
  have e2 := congrArg Radio.rxfifo h2
  exact e2

/-! ### The end of an operation (R109) -/

/-- `complete` writes `success` and `opstate` only, keeps the chip's registers, and idles the radio where asked. -/
theorem complete_spec (ok idle : Bool) (s : State) :
    (complete ok idle s).engine = { s.engine with success := ok, opstate := .operationComplete } ∧
    (complete ok idle s).params = s.params ∧ (complete ok idle s).inputs = s.inputs ∧
    (complete ok idle s).refusedMark = s.refusedMark ∧
    busTrace (complete ok idle s).history =
      busTrace s.history ++ (if idle then [.strobe .idle, .delay s.params.settleUs] else []) ∧
    causeTrace (complete ok idle s).history = causeTrace s.history ∧
    (complete ok idle s).radio.addr = s.radio.addr ∧ (complete ok idle s).radio.pktlen = s.radio.pktlen ∧
    (complete ok idle s).radio.cfg = s.radio.cfg ∧ (idle = true → (complete ok idle s).radio.mode = .idle) := by
  cases idle <;> simp [complete]

theorem complete_kept (ok idle : Bool) (s : State) : RadioKept s (complete ok idle s) := by
  cases idle with
  | false => exact .of_eq rfl rfl rfl rfl
  | true =>
    refine (RadioKept.of_eq (s := s) (u := { s with engine := { s.engine with success := ok } }) rfl rfl rfl rfl).trans ?_
    exact (setModeIdle_kept _).trans (.of_eq rfl rfl rfl rfl)

theorem complete_rxfifo (ok idle : Bool) (s : State) : s.radio.rxfifo <+: (complete ok idle s).radio.rxfifo := by
  cases idle with
  | false => exact List.prefix_rfl
  | true => exact setModeIdle_rxfifo { s with engine := { s.engine with success := ok } }

/-! ### The poll (R87) -/

/-- A list that starts with 16 bytes gives them whatever follows. -/
theorem take16_of_prefix {l m : List Byte} (h : l <+: m) (hl : 16 ≤ l.length) : m.take 16 = l.take 16 := by
  obtain ⟨r, rfl⟩ := h
  rw [List.take_append_of_le_length hl]

/-- The status read shows the count and keeps everything but the history and the draws (R78). -/
theorem busReadStatus_spec {s : State} (hp : s.params.wf = true)
    (hl : s.radio.rxfifo.length ≤ s.params.rxfifoCap) (a : Byte) :
    s.params.rxCount (busReadStatus a s).1 = (radioGap s).radio.rxfifo.length ∧
    (busReadStatus a s).2.radio = (radioGap s).radio := by
  refine ⟨?_, rfl⟩
  have h1 : (radioGap s).radio.rxfifo.length ≤ s.params.rxfifoCap := (radioGap_air s).rxfifo_le hl
  simpa [busReadStatus] using statusShowing_count hp h1 _

/-- A `BurstRead` after the count showed 16 bytes does not run short: `Fault(Unmodelled)` cannot occur in the driver
(R79). -/
theorem busReadStatus_then_gap_enough {s : State} (hp : s.params.wf = true)
    (hl : s.radio.rxfifo.length ≤ s.params.rxfifoCap) (a b : Byte)
    (h : 16 ≤ s.params.rxCount (busReadStatus a s).1) : busBurstRead b 16 (busReadStatus a s).2 ≠ none := by
  obtain ⟨h1, h2⟩ := busReadStatus_spec hp hl a
  have h3 := (radioGap_air (busReadStatus a s).2).rxfifo.length_le
  rw [h2, ← h1] at h3
  simp only [busBurstRead]
  rw [if_neg (by omega)]
  simp

/-- What a poll that found a frame leaves (R87). -/
theorem pollFrame_spec (s : State) :
    (pollFrame s).1 = true ∧
    (pollFrame s).2.engine = { s.engine with rxBuf := frameOfBytes ((radioGap s).radio.rxfifo.take 16) } ∧
    (pollFrame s).2.params = s.params ∧ (pollFrame s).2.inputs = s.inputs ∧
    (pollFrame s).2.refusedMark = s.refusedMark ∧ (pollFrame s).2.outcome = s.outcome ∧
    busTrace (pollFrame s).2.history = busTrace s.history ++
      [.burstRead s.params.regRxfifo ((radioGap s).radio.rxfifo.take 16), .strobe .frx] ∧
    causeTrace (pollFrame s).2.history = causeTrace s.history ∧
    (pollFrame s).2.radio.rxfifo = [] ∧ (pollFrame s).2.radio.addr = s.radio.addr ∧
    (pollFrame s).2.radio.pktlen = s.radio.pktlen ∧ (pollFrame s).2.radio.cfg = s.radio.cfg := by
  refine ⟨rfl, ?_, ?_, ?_, ?_, ?_, ?_, ?_, rfl, ?_, ?_, ?_⟩
  · simp [pollFrame, takeRxBytes, frameSize]
  · simp [pollFrame]
  · simp [pollFrame]
  · simp [pollFrame]
  · simp [pollFrame]
  · simp [pollFrame, frameSize]
  · simp [pollFrame]
  · simp [pollFrame, busStrobe_regs, takeRxBytes]
  · simp [pollFrame, busStrobe_regs, takeRxBytes]
  · simp [pollFrame, busStrobe_regs, takeRxBytes]

theorem rxGateOpen_open {s : State} (h : s.gateOpen) :
    (rxGateOpen s).1 = true ∧ ∃ d, (rxGateOpen s).2 = { s with draws := d } ∧ d.gaps = s.draws.gaps := by
  rcases h with h | ⟨rest, h⟩
  · simp only [rxGateOpen, h]
    exact ⟨rfl, s.draws, rfl, rfl⟩
  · by_cases hg : s.params.rxGate = true
    · simp only [rxGateOpen, hg, if_true]
      exact ⟨drawReady_cons h, _, rfl, rfl⟩
    · simp only [rxGateOpen, hg]
      exact ⟨rfl, s.draws, rfl, rfl⟩

/-- With a frame waiting the poll takes it (R87): what it answers and leaves, whatever the radio agent does. -/
theorem readRxPayload_frame {s : State} (h : s.FrameWaiting) :
    (readRxPayload s).1 = true ∧
    (readRxPayload s).2.engine = { s.engine with rxBuf := frameOfBytes (s.radio.rxfifo.take 16) } ∧
    (readRxPayload s).2.params = s.params ∧ (readRxPayload s).2.inputs = s.inputs ∧
    (readRxPayload s).2.refusedMark = s.refusedMark ∧
    (∃ b, 16 ≤ s.params.rxCount b ∧ busTrace (readRxPayload s).2.history = busTrace s.history ++
      [.readStatus s.params.regRxbytes b, .burstRead s.params.regRxfifo (s.radio.rxfifo.take 16), .strobe .frx]) ∧
    causeTrace (readRxPayload s).2.history = causeTrace s.history ∧
    (readRxPayload s).2.radio.rxfifo = [] ∧ (readRxPayload s).2.radio.addr = s.radio.addr ∧
    (readRxPayload s).2.radio.pktlen = s.radio.pktlen ∧ (readRxPayload s).2.radio.cfg = s.radio.cfg := by
  obtain ⟨hg, d, hd, -⟩ := rxGateOpen_open h.gate
  set g : State := { s with draws := d } with hgdef
  have hst := busReadStatus_spec (s := g) h.params_wf h.within s.params.regRxbytes
  set st := busReadStatus s.params.regRxbytes g with hstdef
  have hgap := (radioGap_air g).rxfifo
  have hcount : ¬ s.params.rxCount st.1 < 16 := by
    have := hgap.length_le
    have h16 : 16 ≤ g.radio.rxfifo.length := h.enough
    have e : s.params.rxCount st.1 = (radioGap g).radio.rxfifo.length := hst.1
    omega
  have hrun : readRxPayload s = pollFrame st.2 := by
    have hp : st.2.params = s.params := by simp [hstdef, hgdef]
    simp only [readRxPayload, hg, hd, if_true]
    rw [← hstdef, hp]
    simp [frameSize, hcount]
  have htake : (radioGap st.2).radio.rxfifo.take 16 = s.radio.rxfifo.take 16 := by
    refine take16_of_prefix (List.IsPrefix.trans hgap ?_) h.enough
    rw [← hst.2]
    exact (radioGap_air st.2).rxfifo
  obtain ⟨q1, q2, q3, q4, q5, -, q7, q8, q9, q10, q11, q12⟩ := pollFrame_spec st.2
  rw [htake] at q2 q7
  rw [hrun]
  refine ⟨q1, ?_, ?_, ?_, ?_, ⟨st.1, by omega, ?_⟩, ?_, q9, ?_, ?_, ?_⟩
  · rw [q2]; simp [hstdef, hgdef]
  · rw [q3]; simp [hstdef, hgdef]
  · rw [q4]; simp [hstdef, hgdef]
  · rw [q5]; simp [hstdef, hgdef]
  · rw [q7]; simp [hstdef, hgdef]
  · rw [q8]; simp [hstdef, hgdef]
  · rw [q10, hst.2]; simp [hgdef]
  · rw [q11, hst.2]; simp [hgdef]
  · rw [q12, hst.2]; simp [hgdef]

/-- A poll that finds no frame reads the count only, and leaves `rx_buf` open (R25, R87). -/
theorem readRxPayload_noFrame {s : State} (h : s.NoFrame) :
    ∃ (b : Byte) (x : Frame) (d : Draws), s.params.rxCount b = s.radio.rxfifo.length ∧
      readRxPayload s = (false, { s with
        engine := { s.engine with rxBuf := x }
        history := s.history ++ [.bus (.readStatus s.params.regRxbytes b)]
        draws := d }) := by
  obtain ⟨hg, d, hd, hgaps⟩ := rxGateOpen_open h.gate
  set g : State := { s with draws := d } with hgdef
  have hq : g.quiet 1 := State.quiet_congr h.still hgaps
  obtain ⟨rest, hr⟩ := hq
  have hgap : radioGap g = { s with draws := { d with gaps := rest } } := by
    rw [radioGap_quiet hr]
    rfl
  have hcap : s.radio.rxfifo.length ≤ s.params.rxfifoCap := by
    have := (params_wf_caps h.params_wf).2
    have := h.few
    omega
  have hst := busReadStatus_spec (s := g) h.params_wf hcap s.params.regRxbytes
  set st := busReadStatus s.params.regRxbytes g with hstdef
  have hb : s.params.rxCount st.1 = s.radio.rxfifo.length := by
    have := hst.1
    rw [hgap] at this
    exact this
  have hst2 : ∃ d', st.2 = { s with
      history := s.history ++ [.bus (.readStatus s.params.regRxbytes st.1)], draws := d' } := by
    refine ⟨st.2.draws, ?_⟩
    have : st.2 = logBus (.readStatus s.params.regRxbytes st.1) (drawStatus (radioGap g)).2 := rfl
    rw [this, hgap]
    rfl
  obtain ⟨d', hst2⟩ := hst2
  refine ⟨st.1, (drawRxBuf st.2).1, (drawRxBuf st.2).2.draws, hb, ?_⟩
  have hp : st.2.params = s.params := by rw [hst2]
  have hlt : s.params.rxCount st.1 < 16 := by rw [hb]; exact h.few
  have hrun : readRxPayload s = pollFailed st.2 := by
    simp only [readRxPayload, hg, hd, if_true]
    rw [← hstdef, hp]
    simp [frameSize, hlt]
  rw [hrun]
  simp only [pollFailed]
  rw [hst2]
  rfl

/-- A poll behind a shut gate does nothing but leave `rx_buf` open (R25, R87). -/
theorem readRxPayload_shut {s : State} (h : s.GateShut) :
    ∃ (x : Frame) (d : Draws), readRxPayload s =
      (false, { s with
        engine := { s.engine with rxBuf := x }
        draws := d }) := by
  obtain ⟨hg, rest, hr⟩ := h
  have e : rxGateOpen s = (false, (drawReady s).2) := by
    simp [rxGateOpen, hg, drawReady, hr, nextDraw_cons]
  refine ⟨(drawRxBuf (drawReady s).2).1, (drawRxBuf (drawReady s).2).2.draws, ?_⟩
  simp only [readRxPayload, e, Bool.false_eq_true, if_false]
  rfl

/-- A poll that finds no frame, the gate shut or open: its transactions are those of `failedPoll`. -/
theorem readRxPayload_failed {s : State} (h : s.NoFrame ∨ s.GateShut) :
    ∃ (poll : List BusEvent) (x : Frame) (d : Draws), s.failedPoll poll ∧
      readRxPayload s = (false, { s with
        engine := { s.engine with rxBuf := x }
        history := s.history ++ poll.map .bus
        draws := d }) := by
  obtain h | h := h
  · obtain ⟨b, x, d, hb, hr⟩ := readRxPayload_noFrame h
    exact ⟨_, x, d, .inr ⟨h, b, hb, rfl⟩, hr⟩
  · obtain ⟨x, d, hr⟩ := readRxPayload_shut h
    exact ⟨[], x, d, .inl ⟨h, rfl⟩, by simpa using hr⟩

/-- The bus transactions of any poll: none behind a shut gate, one that finds too few bytes, three that takes a frame
(R87, R170). -/
theorem readRxPayload_work (s : State) :
    ∃ (shut : Bool) (l : List BusEvent), (s.params.rxGate = false → shut = false) ∧
      (s.params.rxGate = true → ∀ r rest, s.draws.ready = r :: rest → shut = !r) ∧
      busTrace (readRxPayload s).2.history = busTrace s.history ++ l ∧
      ((readRxPayload s).1 = true → shut = false ∧ l.length = 3) ∧
      ((readRxPayload s).1 = false → l.length = if shut then 0 else 1) := by
  have hgate : (rxGateOpen s).2.history = s.history ∧
      (s.params.rxGate = false → (rxGateOpen s).1 = true) ∧
      (s.params.rxGate = true → ∀ r rest, s.draws.ready = r :: rest → (rxGateOpen s).1 = r) := by
    unfold rxGateOpen
    refine ⟨by split <;> rfl, fun h => by simp [h], fun h r rest hr => by simp [h, drawReady, hr, nextDraw_cons]⟩
  obtain ⟨h1, h2, h3⟩ := hgate
  simp only [readRxPayload]
  generalize rxGateOpen s = g at *
  obtain ⟨go, g⟩ := g
  simp only at h1 h2 h3
  cases go with
  | false =>
    exact ⟨true, [], fun h => (nomatch h2 h), fun h r rest hr => by rw [← h3 h r rest hr]; rfl,
      by simp [pollFailed, h1], fun h => (nomatch h), fun _ => rfl⟩
  | true =>
    have hs : ∀ r rest, s.params.rxGate = true → s.draws.ready = r :: rest → false = !r :=
      fun r rest h hr => by rw [← h3 h r rest hr]; rfl
    have hst : busTrace (busReadStatus g.params.regRxbytes g).2.history = busTrace s.history ++
        [.readStatus g.params.regRxbytes (busReadStatus g.params.regRxbytes g).1] := by
      simp [busReadStatus, h1]
    simp only [if_true]
    by_cases hlt : (busReadStatus g.params.regRxbytes g).2.params.rxCount (busReadStatus g.params.regRxbytes g).1 < frameSize
    · simp only [hlt, if_true]
      exact ⟨false, _, fun _ => rfl, fun h r rest hr => hs r rest h hr, hst,
        fun h => (nomatch h), fun _ => rfl⟩
    · simp only [hlt, if_false]
      obtain ⟨q1, -, -, -, -, -, q2, -⟩ := pollFrame_spec (busReadStatus g.params.regRxbytes g).2
      rw [hst] at q2
      exact ⟨false, _, fun _ => rfl, fun h r rest hr => hs r rest h hr, by rw [q2, List.append_assoc],
        fun _ => ⟨rfl, rfl⟩, fun h => by rw [q1] at h; exact nomatch h⟩

/-! ### The bring-up (R81) -/

theorem burstRegEffect_fifos (a : Nat) (l : List Byte) (s : State) :
    (burstRegEffect a l s).radio.mode = s.radio.mode ∧ (burstRegEffect a l s).radio.txfifo = s.radio.txfifo ∧
      (burstRegEffect a l s).radio.rxfifo = s.radio.rxfifo := by
  induction l generalizing a s with
  | nil => exact ⟨rfl, rfl, rfl⟩
  | cons v rest ih =>
    obtain ⟨h1, h2, h3⟩ := ih (a + 1) (writeRegEffect a v s)
    have : (writeRegEffect a v s).radio.mode = s.radio.mode ∧ (writeRegEffect a v s).radio.txfifo = s.radio.txfifo ∧
        (writeRegEffect a v s).radio.rxfifo = s.radio.rxfifo := by
      unfold writeRegEffect
      split <;> [exact ⟨rfl, rfl, rfl⟩; (split <;> exact ⟨rfl, rfl, rfl⟩)]
    exact ⟨h1.trans this.1, h2.trans this.2.1, h3.trans this.2.2⟩

/-- After the bring-up sequence the chip is idle with empty FIFOs and packet length 16 (R81, R155). -/
theorem configureRadio_radio {s : State} (hp : s.params.wf = true) :
    (configureRadio s).radio.mode = .idle ∧ (configureRadio s).radio.txfifo = [] ∧
      (configureRadio s).radio.rxfifo = [] ∧ (configureRadio s).radio.pktlen = 16 := by
  simp only [Params.wf, Bool.and_eq_true, decide_eq_true_eq] at hp
  obtain ⟨⟨⟨⟨-, hreg⟩, hbase⟩, -⟩, -⟩ := hp
  have hreg' : ¬ s.params.regPktlen.toNat = s.params.regAddr.toNat := fun e => hreg (BitVec.eq_of_toNat_eq e.symm)
  set r := busStrobe .res (busCsPulse s.params.resetSequence s) with hr
  have hrm : r.radio.mode = .idle := rfl
  have hrp : r.params = s.params := by simp [hr]
  set c := busBurstWrite s.params.cfgBase s.params.configTable r with hc
  have hcr : c.radio.mode = .idle ∧ c.radio.txfifo = [] ∧ c.radio.rxfifo = [] := by
    have e : c = burstRegEffect s.params.cfgBase.toNat s.params.configTable
        (logBus (.burstWrite s.params.cfgBase s.params.configTable) (radioGap r)) := by
      simp [hc, busBurstWrite, burstWriteEffect, hrp, hbase]
    obtain ⟨f1, f2, f3⟩ := burstRegEffect_fifos s.params.cfgBase.toNat s.params.configTable
      (logBus (.burstWrite s.params.cfgBase s.params.configTable) (radioGap r))
    rw [e, f1, f2, f3]
    simp only [logBus_radio, (radioGap_idle hrm).1]
    exact ⟨rfl, rfl, rfl⟩
  have hcp : c.params = s.params := by simp [hc, hrp]
  have : configureRadio s = busWriteReg s.params.regPktlen 16 c := rfl
  rw [this]
  simp [busWriteReg, writeRegEffect, hcp, hreg', (radioGap_idle hcr.1).1, hcr]

/-- The bring-up sequence on the rest of the state. -/
theorem configureRadio_spec (s : State) :
    (configureRadio s).engine = s.engine ∧ (configureRadio s).params = s.params ∧
    (configureRadio s).inputs = s.inputs ∧ (configureRadio s).refusedMark = s.refusedMark ∧
    (configureRadio s).outcome = s.outcome ∧ (configureRadio s).draws.initOk = s.draws.initOk ∧
    busTrace (configureRadio s).history = busTrace s.history ++
      [.csPulse s.params.resetSequence, .strobe .res, .burstWrite s.params.cfgBase s.params.configTable,
        .writeReg s.params.regPktlen 16] ∧
    causeTrace (configureRadio s).history = causeTrace s.history := by
  refine ⟨?_, ?_, ?_, ?_, ?_, ?_, ?_, ?_⟩ <;> simp [configureRadio, frameSize]

end Sys2Proof.Machine
end

