-- ==== Sys2Proof/Laws/Commands.lean ====
section
/-! SUPPORT. Inversion: everything a poll, a dispatch, a host command and any other instruction can do to the engine
registers, and that all of them keep the history, the parameters and the bounds of the radio. -/

namespace Sys2Proof.Machine

/-! ### The poll -/

theorem rxGateOpen_kept (s : State) : ∃ d, (rxGateOpen s).2 = { s with draws := d } := by
  unfold rxGateOpen
  split
  · exact ⟨(drawReady s).2.draws, rfl⟩
  · exact ⟨s.draws, rfl⟩

theorem pollFailed_kept (s : State) : RadioKept s (pollFailed s).2 := .of_eq rfl rfl rfl rfl

theorem pollFrame_kept (s : State) : RadioKept s (pollFrame s).2 := by
  have h := (radioGap_kept s).trans (takeRxBytes_kept s.params.regRxfifo frameSize (radioGap s))
  simp only [pollFrame]
  refine (h.trans (.of_eq ?_ ?_ ?_ ?_)).trans (busStrobe_kept .frx _)
  all_goals rfl

/-- A poll changes `rx_buf` of the engine and nothing else of it (R87). -/
theorem readRxPayload_engine (s : State) : ∃ x, (readRxPayload s).2.engine = { s.engine with rxBuf := x } := by
  obtain ⟨d, hg⟩ := rxGateOpen_kept s
  have he : (rxGateOpen s).2.engine = s.engine := by rw [hg]
  simp only [readRxPayload]
  split
  · split
    · refine ⟨(drawRxBuf (busReadStatus (rxGateOpen s).2.params.regRxbytes (rxGateOpen s).2).2).1, ?_⟩
      simp only [pollFailed, drawRxBuf_engine, busReadStatus_engine, he]
    · obtain ⟨-, p, -⟩ := pollFrame_spec (busReadStatus (rxGateOpen s).2.params.regRxbytes (rxGateOpen s).2).2
      rw [p]
      simp only [busReadStatus_engine, he]
      exact ⟨_, rfl⟩
  · refine ⟨(drawRxBuf (rxGateOpen s).2).1, ?_⟩
    simp only [pollFailed, drawRxBuf_engine, he]

theorem readRxPayload_kept (s : State) : RadioKept s (readRxPayload s).2 := by
  obtain ⟨d, hg⟩ := rxGateOpen_kept s
  have h0 : RadioKept s (rxGateOpen s).2 := by rw [hg]; exact .of_eq rfl rfl rfl rfl
  simp only [readRxPayload]
  split
  · split
    · exact (h0.trans (busReadStatus_kept _ _)).trans (pollFailed_kept _)
    · exact (h0.trans (busReadStatus_kept _ _)).trans (pollFrame_kept _)
  · exact h0.trans (pollFailed_kept _)

/-- What a poll keeps beside the radio: the mark, the inputs, the chip's registers. -/
theorem readRxPayload_rest (s : State) :
    (readRxPayload s).2.refusedMark = s.refusedMark ∧ (readRxPayload s).2.inputs = s.inputs ∧
      (readRxPayload s).2.radio.addr = s.radio.addr ∧ (readRxPayload s).2.radio.pktlen = s.radio.pktlen ∧
      (readRxPayload s).2.radio.cfg = s.radio.cfg ∧
      causeTrace (readRxPayload s).2.history = causeTrace s.history := by
  obtain ⟨d, hg⟩ := rxGateOpen_kept s
  simp only [readRxPayload, hg]
  split
  · split
    · simp [pollFailed, busReadStatus]
    · obtain ⟨-, -, -, q1, q2, -, -, q3, -, q4, q5, q6⟩ :=
        pollFrame_spec (busReadStatus s.params.regRxbytes { s with draws := d }).2
      rw [q1, q2, q3, q4, q5, q6]
      simp [busReadStatus]
  · simp [pollFailed]

/-! ### The dispatch (R118–R123) -/

/-- The four ways a received frame is handled. -/
theorem dispatchResponse_cases {s u : State} (h : dispatchResponse s = some u) :
    (((∃ pr speed timer, s.engine.op = .setSpeed pr speed timer) ∨ ∃ ownId pr, s.engine.op = .pairingAck ownId pr) ∧
      u = complete true s.params.idleOnResponseComplete s) ∨
    (∃ ownId, s.engine.op = .pairingDiscover ownId ∧ s.engine.rxBuf[5] ≠ s.params.codeJoinOpen ∧
      u = complete false s.params.idleOnResponseComplete (recordCause .protocolMismatch s)) ∨
    (∃ ownId pr, s.engine.op = .pairingDiscover ownId ∧ pr.ownId = ownId ∧ u = enterJoin ownId pr s) ∨
    (∃ ownId pr, s.engine.op = .pairingJoin ownId pr ∧ u = enterAck ownId pr s) := by
  unfold dispatchResponse classify at h
  cases hop : s.engine.op with
  | none => simp [hop] at h
  | setSpeed pr speed timer =>
    simp [hop] at h
    exact .inl ⟨.inl ⟨_, _, _, rfl⟩, h.symm⟩
  | pairingDiscover ownId =>
    unfold parseDiscoveryResponse at h
    by_cases hc : s.engine.rxBuf[5] ≠ s.params.codeJoinOpen
    · simp [hop, hc] at h
      exact .inr (.inl ⟨ownId, rfl, hc, h.symm⟩)
    · simp only [hop, hc, if_false, Option.some.injEq] at h
      exact .inr (.inr (.inl ⟨ownId, _, rfl, rfl, h.symm⟩))
  | pairingJoin ownId pr =>
    simp [hop] at h
    exact .inr (.inr (.inr ⟨ownId, pr, rfl, h.symm⟩))
  | pairingAck ownId pr =>
    simp [hop] at h
    exact .inl ⟨.inr ⟨_, _, rfl⟩, h.symm⟩

/-- A frame is always handled while an operation is live (R99: the other case "cannot occur"). -/
theorem dispatchResponse_some {s : State} (h : s.engine.op ≠ .none) : ∃ u, dispatchResponse s = some u := by
  unfold dispatchResponse classify
  cases hop : s.engine.op with
  | none => exact absurd hop h
  | pairingDiscover o => cases hc : parseDiscoveryResponse s.params s.engine.rxBuf o <;> simp [hc]
  | pairingJoin o p => simp
  | pairingAck o p => simp
  | setSpeed a b c => simp

theorem enterJoin_eq (ownId : Byte) (pr : PairingRecord) (s : State) :
    ∃ v, enterJoin ownId pr s = resend v ∧ v.engine = { s.engine with
        op := .pairingJoin ownId pr, attempts := 0, txBuf := buildJoinRequest s.params pr } ∧
      v.params = s.params ∧ v.inputs = s.inputs ∧ v.refusedMark = s.refusedMark ∧
      v.radio.pktlen = s.radio.pktlen ∧ v.radio.cfg = s.radio.cfg ∧ RadioKept s v ∧
      busTrace v.history = busTrace s.history ++ addressEvents s.params pr.networkId := by
  obtain ⟨a1, a2, a3, a4, a5, -, -, a8, a9⟩ := programAddress_spec pr.networkId
    { s with engine := { s.engine with op := .pairingJoin ownId pr, attempts := 0 } }
  refine ⟨_, rfl, ?_, a2, a3, a4, a8, a9, ?_, a5⟩
  · simp only [a1]
  · have h1 : RadioKept s { s with engine := { s.engine with op := .pairingJoin ownId pr, attempts := 0 } } :=
      .of_eq rfl rfl rfl rfl
    refine (h1.trans (programAddress_kept pr.networkId _)).trans (.of_eq ?_ ?_ ?_ ?_)
    all_goals rfl

theorem enterAck_eq (ownId : Byte) (pr : PairingRecord) (s : State) :
    enterAck ownId pr s = resend { s with engine := { s.engine with
      op := .pairingAck ownId pr, attempts := 0, maxRetries := 1,
      txBuf := buildAck s.params pr.mainType pr.mainId pr.ownId } } := rfl

/-! ### PROCESS in WaitingResponse (R115) -/

/-- The six ways a poll step ends. -/
theorem processWaiting_cases {t : U32} {s u : State} (h : processWaiting t s = some u) :
    ∃ r, RadioKept s r ∧ (∃ x, r.engine = { s.engine with rxBuf := x }) ∧ r.refusedMark = s.refusedMark ∧
      r.inputs = s.inputs ∧ r.radio.pktlen = s.radio.pktlen ∧ r.radio.cfg = s.radio.cfg ∧
      (u = r ∨
       ((r.engine.attempts + 1).toNat < r.engine.maxRetries.toNat ∧ u = resend (recordCause .noResponse
          { r with engine := { r.engine with attempts := r.engine.attempts + 1 } })) ∨
       (r.engine.maxRetries.toNat ≤ (r.engine.attempts + 1).toNat ∧
          u = complete false true (recordCause .retriesExhausted
            { r with engine := { r.engine with attempts := r.engine.attempts + 1 } })) ∨
       dispatchResponse r = some u) := by
  obtain ⟨q1, q2, -, q4, q5, -⟩ := readRxPayload_rest s
  refine ⟨(readRxPayload s).2, readRxPayload_kept s, readRxPayload_engine s, q1, q2, q4, q5, ?_⟩
  simp only [processWaiting] at h
  split at h
  · exact .inr (.inr (.inr h))
  · split at h
    · simp only [retryOrFail, retryLeft, Option.some.injEq, decide_eq_true_eq] at h
      split at h
      · rename_i hb
        exact .inr (.inl ⟨hb, h.symm⟩)
      · rename_i hb
        exact .inr (.inr (.inl ⟨Nat.le_of_not_lt hb, h.symm⟩))
    · simp only [Option.some.injEq] at h
      exact .inl h.symm

/-! ### Any instruction -/

theorem engineReset_kept (s : State) : RadioKept s (engineReset s) :=
  (RadioKept.of_eq (s := s) (u := { s with engine := { s.engine with
    opstate := .idle, op := .none, attempts := 0, maxRetries := 0, timeoutMs := 0, attemptStart := 0 } })
    rfl rfl rfl rfl).trans (setModeIdle_kept _)

/-- Writing engine registers keeps it all. -/
theorem engine_kept (s : State) (e : Engine) : RadioKept s { s with engine := e } := .of_eq rfl rfl rfl rfl

theorem recorded_engine_kept (s : State) (e : Engine) (c : Cause) : RadioKept s (recordCause c { s with engine := e }) :=
  (engine_kept s e).trans (recordCause_kept _ _)

theorem setupFault_kept (s : State) : RadioKept s (setupFault s) := recorded_engine_kept s _ _

theorem arm_kept (v : Op) (budget : Byte) (s : State) : RadioKept s (arm v budget s) := engine_kept s _

theorem drawOwnId_kept (s : State) : RadioKept s (drawOwnId s).2 := .of_eq rfl rfl rfl rfl

theorem drawClock_kept (s : State) : RadioKept s (drawClock s).2 := .of_eq rfl rfl rfl rfl

theorem processTransmitting_kept (t : U32) (s : State) : RadioKept s (processTransmitting t s) :=
  (engine_kept s _).trans (setModeReceive_kept _)

theorem dispatchResponse_kept {s u : State} (h : dispatchResponse s = some u) : RadioKept s u := by
  obtain ⟨-, rfl⟩ | ⟨_, -, -, rfl⟩ | ⟨ownId, pr, -, -, rfl⟩ | ⟨ownId, pr, -, rfl⟩ := dispatchResponse_cases h
  · exact complete_kept _ _ _
  · exact (recordCause_kept _ _).trans (complete_kept _ _ _)
  · obtain ⟨v, e, -, -, -, -, -, -, k, -⟩ := enterJoin_eq ownId pr s
    rw [e]
    exact k.trans (resend_kept v)
  · rw [enterAck_eq]
    exact (engine_kept s _).trans (resend_kept _)

theorem processWaiting_kept {t : U32} {s u : State} (h : processWaiting t s = some u) : RadioKept s u := by
  obtain ⟨r, k, -, -, -, -, -, rfl | ⟨-, rfl⟩ | ⟨-, rfl⟩ | h⟩ := processWaiting_cases h
  · exact k
  · exact (k.trans (recorded_engine_kept r _ _)).trans (resend_kept _)
  · exact (k.trans (recorded_engine_kept r _ _)).trans (complete_kept _ _ _)
  · exact k.trans (dispatchResponse_kept h)

/-- The outcome is no part of what is kept. -/
theorem RadioKept.finish {s u t : State} {o : StepOutcome} (k : RadioKept s u) (h : finish o u = .next t) :
    RadioKept s t := by
  simp only [finish_eq_next] at h
  subst h
  exact k.trans (.of_eq rfl rfl rfl rfl)

theorem RadioKept.refuse {s t : State} {r : RefuseReason} (h : refuse r s = .next t) : RadioKept s t := by
  simp only [refuse_eq_next] at h
  subst h
  exact .of_eq rfl rfl rfl rfl

/-- Every instruction keeps what it found in the history, the parameters, the RX FIFO within its size and the register
space canonical. -/
theorem exec_kept {i : Instr} {s t : State} (h : exec i s = .next t) : RadioKept s t := by
  cases i with
  | init =>
    simp only [exec, execInit] at h
    split at h
    · exact .refuse h
    · split at h
      · exact .refuse h
      · refine RadioKept.finish ?_ h
        split
        · exact (bringUp_kept s).trans (engine_kept _ _)
        · exact (bringUp_kept s).trans (setupFault_kept _)
  | startPairing =>
    simp only [exec, execStartPairing] at h
    split at h
    · exact .refuse h
    · split at h
      · exact (RadioKept.refl s).finish h
      · exact ((((drawOwnId_kept s).trans (arm_kept _ _ _)).trans (programAddress_kept _ _)).trans
          (send_kept _ _)).finish h
  | startSetSpeed pr speed timer =>
    simp only [exec, execStartSetSpeed] at h
    split at h
    · exact .refuse h
    · split at h
      · exact (RadioKept.refl s).finish h
      · exact (((arm_kept _ _ s).trans (programAddress_kept _ _)).trans (send_kept _ _)).finish h
  | process =>
    simp only [exec, execProcess] at h
    split at h
    · exact .refuse h
    · split at h
      · exact (drawClock_kept s).finish h
      · exact ((drawClock_kept s).trans (processTransmitting_kept _ _)).finish h
      · split at h
        · rename_i u hu
          exact ((drawClock_kept s).trans (processWaiting_kept hu)).finish h
        · cases h
      · exact (drawClock_kept s).finish h
  | isOperationComplete =>
    simp only [exec, execIsOperationComplete] at h
    split at h
    · exact .refuse h
    · exact (RadioKept.refl s).finish h
  | lastOperationSuccessful =>
    simp only [exec, execLastOperationSuccessful] at h
    split at h
    · exact .refuse h
    · exact (RadioKept.refl s).finish h
  | getPairingResult =>
    simp only [exec, execGetPairingResult] at h
    split at h
    · exact .refuse h
    · exact (RadioKept.refl s).finish h
  | resetOperationState =>
    simp only [exec, execResetOperationState] at h
    split at h
    · exact .refuse h
    · exact (engineReset_kept s).finish h
  | reservedHc opcode =>
    simp only [exec, execReservedHc] at h
    split at h <;> exact .refuse h
  | initializeRadio => exact (bringUp_kept s).finish h
  | setModeIdle => exact (setModeIdle_kept s).finish h
  | setModeReceive => exact (setModeReceive_kept s).finish h
  | setModeTransmit => exact (setModeTransmit_kept s).finish h
  | setTxAddress nid => exact (setAddress_kept nid s).finish h
  | setRxAddress nid => exact (setAddress_kept nid s).finish h
  | writeTxPayload f => exact (writeTxPayload_kept f s).finish h
  | readRxPayload => exact (readRxPayload_kept s).finish h
  | strobe st => exact (busStrobe_kept st s).finish h
  | writeReg a v => exact (busWriteReg_kept a v s).finish h
  | burstWrite a bytes => exact (busBurstWrite_kept a bytes s).finish h
  | readStatus a => exact (busReadStatus_kept a s).finish h
  | burstRead a n =>
    simp only [exec, execBurstRead, busBurstRead] at h
    split at h
    · cases h
    · rename_i r hr
      split at hr
      · cases hr
      · cases hr
        exact ((radioGap_kept s).trans (takeRxBytes_kept a n _)).finish h
  | csPulse pattern => exact (busCsPulse_kept pattern s).finish h
  | delay us => exact (busDelay_kept us s).finish h
  | discovery ownId => exact (RadioKept.refl s).finish h
  | joinRequest pr => exact (RadioKept.refl s).finish h
  | ack mainType mainId ownId => exact (RadioKept.refl s).finish h
  | setSpeed mainType mainId ownId speed => exact (RadioKept.refl s).finish h
  | setTimer mainType mainId ownId speed timer => exact (RadioKept.refl s).finish h
  | joinOpen f =>
    simp only [exec, execJoinOpen, classifyFrame] at h
    split at h
    · cases h
    · exact (RadioKept.refl s).finish h
  | anyResponse f =>
    simp only [exec, execAnyResponse, classifyFrame] at h
    split at h
    · cases h
    · exact (RadioKept.refl s).finish h

/-- An instruction below the host commands changes `rx_buf` of the engine at most, and leaves the mark (R142). -/
theorem exec_engine_below {i : Instr} {s t : State} (hi : i.isHostCommand = false) (h : exec i s = .next t) :
    (∃ x, t.engine = { s.engine with rxBuf := x }) ∧ t.refusedMark = s.refusedMark := by
  have same : ∀ {u : State} {o : StepOutcome}, u.engine = s.engine → u.refusedMark = s.refusedMark →
      finish o u = .next t → (∃ x, t.engine = { s.engine with rxBuf := x }) ∧ t.refusedMark = s.refusedMark := by
    intro u o he hm hf
    simp only [finish_eq_next] at hf
    subst hf
    exact ⟨⟨s.engine.rxBuf, he⟩, hm⟩
  cases i with
  | init | startPairing | startSetSpeed _ _ _ | process | isOperationComplete | lastOperationSuccessful
  | getPairingResult | resetOperationState | reservedHc _ => cases hi
  | initializeRadio =>
    obtain ⟨e, -, -, m, -⟩ := configureRadio_spec s
    exact same (u := (bringUp s).2) e m h
  | setModeIdle => exact same (setModeIdle_engine s) (setModeIdle_refusedMark s) h
  | setModeReceive => exact same (setModeReceive_engine s) (setModeReceive_refusedMark s) h
  | setModeTransmit => exact same (setModeTransmit_engine s) (setModeTransmit_refusedMark s) h
  | setTxAddress nid => exact same (setTxAddress_engine nid s) (setTxAddress_refusedMark nid s) h
  | setRxAddress nid => exact same (setRxAddress_engine nid s) (setRxAddress_refusedMark nid s) h
  | writeTxPayload f => exact same (writeTxPayload_engine f s) (writeTxPayload_refusedMark f s) h
  | readRxPayload =>
    have hf : finish (.flag (readRxPayload s).1) (readRxPayload s).2 = .next t := h
    simp only [finish_eq_next] at hf
    subst hf
    exact ⟨readRxPayload_engine s, (readRxPayload_rest s).1⟩
  | strobe st => exact same (busStrobe_engine st s) (busStrobe_refusedMark st s) h
  | writeReg a v => exact same (busWriteReg_engine a v s) (busWriteReg_refusedMark a v s) h
  | burstWrite a bytes => exact same (busBurstWrite_engine a bytes s) (busBurstWrite_refusedMark a bytes s) h
  | readStatus a => exact same (busReadStatus_engine a s) (busReadStatus_refusedMark a s) h
  | burstRead a n =>
    simp only [exec, execBurstRead, busBurstRead] at h
    split at h
    · cases h
    · rename_i r hr
      split at hr
      · cases hr
      · cases hr
        exact same (by simp) (by simp) h
  | csPulse pattern => exact same (busCsPulse_engine pattern s) (busCsPulse_refusedMark pattern s) h
  | delay us => exact same (busDelay_engine us s) (busDelay_refusedMark us s) h
  | discovery _ | joinRequest _ | ack _ _ _ | setSpeed _ _ _ _ | setTimer _ _ _ _ _ => exact same rfl rfl h
  | joinOpen f =>
    simp only [exec, execJoinOpen, classifyFrame] at h
    split at h
    · cases h
    · exact same rfl rfl h
  | anyResponse f =>
    simp only [exec, execAnyResponse, classifyFrame] at h
    split at h
    · cases h
    · exact same rfl rfl h

/-! ### The engine after each host command that can change it -/

theorem send_engine (f : Frame) (s : State) :
    (send f s).engine = { s.engine with opstate := .transmitting, txBuf := f } := by
  rw [send_eq, (resend_spec _).1]

theorem init_engine {s t : State} (h : exec .init s = .next t) :
    t.engine = s.engine ∨ (s.engine.link ≠ .fault ∧ (s.engine.link = .ready → s.engine.opstate = .idle) ∧
      (t.engine = { s.engine with link := .ready } ∨ t.engine = { s.engine with link := .fault })) := by
  obtain ⟨e, -⟩ := configureRadio_spec s
  simp only [exec, execInit] at h
  split at h
  · simp only [refuse_eq_next] at h
    subst h
    exact .inl rfl
  · rename_i h1
    split at h
    · simp only [refuse_eq_next] at h
      subst h
      exact .inl rfl
    · rename_i h2
      refine .inr ⟨h1, fun hl => by_contra fun hn => h2 ⟨hl, hn⟩, ?_⟩
      simp only [finish_eq_next] at h
      subst h
      cases hok : (bringUp s).1
      · exact .inr (by simp [setupFault, bringUp, e])
      · exact .inl (by simp [bringUp, e])

theorem startPairing_engine {s t : State} (h : exec .startPairing s = .next t) :
    t.engine = s.engine ∨ (s.engine.link = .ready ∧ s.engine.opstate = .idle ∧
      ∃ ownId : Byte, 1 ≤ ownId.toNat ∧ ownId.toNat ≤ 254 ∧ t.engine = { s.engine with
        opstate := .transmitting, op := .pairingDiscover ownId, attempts := 0, maxRetries := s.params.nCmd,
        timeoutMs := s.params.tCmd, success := false, txBuf := buildDiscovery s.params ownId }) := by
  simp only [exec, execStartPairing] at h
  split at h
  · simp only [refuse_eq_next] at h
    subst h
    exact .inl rfl
  · rename_i h1
    split at h
    · simp only [finish_eq_next] at h
      subst h
      exact .inl rfl
    · rename_i h2
      simp only [finish_eq_next] at h
      subst h
      refine .inr ⟨not_not.1 h1, not_not.1 h2, (drawOwnId s).1, (drawOwnId_range s).1, (drawOwnId_range s).2, ?_⟩
      simp [send_engine, (programAddress_spec _ _).1, arm]

theorem startSetSpeed_engine {pr : PairingRecord} {speed timer : Byte} {s t : State}
    (h : exec (.startSetSpeed pr speed timer) s = .next t) :
    t.engine = s.engine ∨ (s.engine.link = .ready ∧ s.engine.opstate = .idle ∧ t.engine = { s.engine with
      opstate := .transmitting, op := .setSpeed pr speed timer, attempts := 0, maxRetries := s.params.nCmd,
      timeoutMs := s.params.tCmd, success := false, txBuf := buildCommand s.params pr speed timer }) := by
  simp only [exec, execStartSetSpeed] at h
  split at h
  · simp only [refuse_eq_next] at h
    subst h
    exact .inl rfl
  · rename_i h1
    split at h
    · simp only [finish_eq_next] at h
      subst h
      exact .inl rfl
    · rename_i h2
      simp only [finish_eq_next] at h
      subst h
      refine .inr ⟨not_not.1 h1, not_not.1 h2, ?_⟩
      simp [send_engine, (programAddress_spec _ _).1, arm]

theorem resetOperationState_engine {s t : State} (h : exec .resetOperationState s = .next t) :
    t.engine = s.engine ∨ (s.engine.link = .ready ∧ t.engine = { s.engine with
      opstate := .idle, op := .none, attempts := 0, maxRetries := 0, timeoutMs := 0, attemptStart := 0 }) := by
  simp only [exec, execResetOperationState] at h
  split at h
  · simp only [refuse_eq_next] at h
    subst h
    exact .inl rfl
  · rename_i h1
    simp only [finish_eq_next] at h
    subst h
    exact .inr ⟨not_not.1 h1, by simp [engineReset]⟩

/-- The engine after `PROCESS`: unchanged but for `rx_buf`; the wait started; the attempt repeated; the operation ended;
the next pairing phase. -/
theorem process_engine {s t : State} (h : exec .process s = .next t) :
    ∃ x : Frame, t.engine = s.engine ∨ (s.engine.link = .ready ∧
      ((s.engine.opstate = .transmitting ∧ ∃ now, t.engine = { s.engine with
          opstate := .waitingResponse, attemptStart := now }) ∨
       (s.engine.opstate = .waitingResponse ∧
        (t.engine = { s.engine with rxBuf := x } ∨
         ((s.engine.attempts + 1).toNat < s.engine.maxRetries.toNat ∧ t.engine = { s.engine with
            rxBuf := x, attempts := s.engine.attempts + 1, opstate := .transmitting }) ∨
         (s.engine.maxRetries.toNat ≤ (s.engine.attempts + 1).toNat ∧ t.engine = { s.engine with
            rxBuf := x, attempts := s.engine.attempts + 1, success := false, opstate := .operationComplete }) ∨
         (s.engine.op ≠ .none ∧ ∃ ok, t.engine = { s.engine with
            rxBuf := x, success := ok, opstate := .operationComplete }) ∨
         (∃ ownId pr, s.engine.op = .pairingDiscover ownId ∧ pr.ownId = ownId ∧ t.engine = { s.engine with
            rxBuf := x, op := .pairingJoin ownId pr, attempts := 0, txBuf := buildJoinRequest s.params pr,
            opstate := .transmitting }) ∨
         (∃ ownId pr, s.engine.op = .pairingJoin ownId pr ∧ t.engine = { s.engine with
            rxBuf := x, op := .pairingAck ownId pr, attempts := 0, maxRetries := 1,
            txBuf := buildAck s.params pr.mainType pr.mainId pr.ownId, opstate := .transmitting }))))) := by
  simp only [exec, execProcess] at h
  split at h
  · simp only [refuse_eq_next] at h
    subst h
    exact ⟨s.engine.rxBuf, .inl rfl⟩
  · rename_i h1
    have h1 := not_not.1 h1
    split at h
    · simp only [finish_eq_next] at h
      subst h
      exact ⟨s.engine.rxBuf, .inl rfl⟩
    · rename_i h2
      simp only [finish_eq_next] at h
      subst h
      exact ⟨s.engine.rxBuf, .inr ⟨h1, .inl ⟨h2, (drawClock s).1, by simp [processTransmitting]⟩⟩⟩
    · rename_i h2
      split at h
      · rename_i u hu
        simp only [finish_eq_next] at h
        subst h
        obtain ⟨r, k, ⟨x, hx⟩, -, -, -, -, hc⟩ := processWaiting_cases hu
        have hp : r.params = s.params := k.params
        simp only [drawClock_engine] at hx
        refine ⟨x, .inr ⟨h1, .inr ⟨h2, ?_⟩⟩⟩
        simp only [hx] at hc
        obtain rfl | ⟨hb, rfl⟩ | ⟨hb, rfl⟩ | hd := hc
        · exact .inl hx
        · exact .inr (.inl ⟨hb, by simp [(resend_spec _).1]⟩)
        · exact .inr (.inr (.inl ⟨hb, by simp [(complete_spec _ _ _).1]⟩))
        · have hop : ∀ v, r.engine.op = v → s.engine.op = v := by rw [hx]; exact fun v e => e
          obtain ⟨hl, rfl⟩ | ⟨ownId, e, -, rfl⟩ | ⟨ownId, pr, e, e2, rfl⟩ | ⟨ownId, pr, e, rfl⟩ :=
            dispatchResponse_cases hd
          · refine .inr (.inr (.inr (.inl ⟨?_, true, by simp [(complete_spec _ _ _).1, hx]⟩)))
            rcases hl with ⟨_, _, _, e⟩ | ⟨_, _, e⟩ <;> simp [hop _ e]
          · refine .inr (.inr (.inr (.inl ⟨?_, false, by simp [(complete_spec _ _ _).1, hx]⟩)))
            simp [hop _ e]
          · obtain ⟨v, ev, e1, -⟩ := enterJoin_eq ownId pr r
            exact .inr (.inr (.inr (.inr (.inl ⟨ownId, pr, hop _ e, e2, by
              simp [ev, (resend_spec _).1, e1, hx, hp]⟩))))
          · exact .inr (.inr (.inr (.inr (.inr ⟨ownId, pr, hop _ e, by
              simp [enterAck_eq, (resend_spec _).1, hx, hp]⟩))))
      · cases h
    · simp only [finish_eq_next] at h
      subst h
      exact ⟨s.engine.rxBuf, .inl rfl⟩

/-- The accessors and the reserved opcodes write no engine register (R124–R126, R142). -/
theorem accessor_engine {i : Instr} {s t : State} (h : exec i s = .next t)
    (hi : i = .isOperationComplete ∨ i = .lastOperationSuccessful ∨ i = .getPairingResult ∨ ∃ op, i = .reservedHc op) :
    t.engine = s.engine ∧ t.radio = s.radio ∧ t.history = s.history := by
  obtain rfl | rfl | rfl | ⟨op, rfl⟩ := hi
  · simp only [exec, execIsOperationComplete] at h
    split at h <;> simp only [refuse_eq_next, finish_eq_next] at h <;> subst h <;> exact ⟨rfl, rfl, rfl⟩
  · simp only [exec, execLastOperationSuccessful] at h
    split at h <;> simp only [refuse_eq_next, finish_eq_next] at h <;> subst h <;> exact ⟨rfl, rfl, rfl⟩
  · simp only [exec, execGetPairingResult] at h
    split at h <;> simp only [refuse_eq_next, finish_eq_next] at h <;> subst h <;> exact ⟨rfl, rfl, rfl⟩
  · simp only [exec, execReservedHc] at h
    split at h <;> simp only [refuse_eq_next] at h <;> subst h <;> exact ⟨rfl, rfl, rfl⟩

end Sys2Proof.Machine
end

