-- ==== Sys2Proof/Laws/PerInstr.lean ====
section
/-! SUPPORT. The statements about every instruction as syntax: one family, one lemma for each constructor. -/

namespace Sys2Proof.Laws

/-- How many bytes an instruction is written in: a host command has the length its opcode fixes (30_encoding.md R61,
R62; one byte for a reserved opcode, whose length the spec leaves open, is the model's: DESIGN CHOICE, log entry 30), a frame 16 bytes (R55), a micro-operation its number and its operand (R66), a bus transaction its kind and its
operands in the model's byte form (log entry 18). -/
def encodedLength : Instr → Nat
  | .startSetSpeed _ _ _ => 10
  | .init | .startPairing | .process | .isOperationComplete | .lastOperationSuccessful | .getPairingResult
  | .resetOperationState | .reservedHc _ => 1
  | .initializeRadio | .setModeIdle | .setModeReceive | .setModeTransmit | .readRxPayload => 1
  | .setTxAddress _ | .setRxAddress _ => 5
  | .writeTxPayload _ => 17
  | .strobe _ | .readStatus _ => 2
  | .writeReg _ _ | .burstRead _ _ => 3
  | .burstWrite _ bytes => 2 + bytes.length
  | .csPulse pattern => 1 + 5 * pattern.length
  | .delay _ => 5
  | .discovery _ | .joinRequest _ | .ack _ _ _ | .setSpeed _ _ _ _ | .setTimer _ _ _ _ _ | .joinOpen _
  | .anyResponse _ => 16

/-- The encoding has the length the instruction's row fixes, and it is host command bytes exactly for the host
commands. -/
def EncodedForm.Statement (i : Instr) : Prop :=
  ∀ p : Params, (encode p i).2.length = encodedLength i ∧ ((encode p i).1 = .hc ↔ i.isHostCommand = true)

theorem pattern_length (l : List CsItem) : (l.flatMap encodeCsItem).length = 5 * l.length := by
  induction l with
  | nil => rfl
  | cons c rest ih =>
    have hc : (encodeCsItem c).length = 5 := by cases c <;> rfl
    simp only [List.flatMap_cons, List.length_append, List.length_cons, ih, hc]
    omega

theorem EncodedForm.init :
    EncodedForm.Statement .init := fun _ =>
  ⟨rfl, by simp [encode, Instr.isHostCommand]⟩

theorem EncodedForm.startPairing :
    EncodedForm.Statement .startPairing := fun _ =>
  ⟨rfl, by simp [encode, Instr.isHostCommand]⟩

theorem EncodedForm.startSetSpeed (pr : PairingRecord) (speed timer : Byte) :
    EncodedForm.Statement (.startSetSpeed pr speed timer) := fun p => by
  simp [encode, encodedLength, Instr.isHostCommand, Machine.prBytes, Machine.bytesLe32]

theorem EncodedForm.process :
    EncodedForm.Statement .process := fun _ =>
  ⟨rfl, by simp [encode, Instr.isHostCommand]⟩

theorem EncodedForm.isOperationComplete :
    EncodedForm.Statement .isOperationComplete := fun _ =>
  ⟨rfl, by simp [encode, Instr.isHostCommand]⟩

theorem EncodedForm.lastOperationSuccessful :
    EncodedForm.Statement .lastOperationSuccessful := fun _ =>
  ⟨rfl, by simp [encode, Instr.isHostCommand]⟩

theorem EncodedForm.getPairingResult :
    EncodedForm.Statement .getPairingResult := fun _ =>
  ⟨rfl, by simp [encode, Instr.isHostCommand]⟩

theorem EncodedForm.resetOperationState :
    EncodedForm.Statement .resetOperationState := fun _ =>
  ⟨rfl, by simp [encode, Instr.isHostCommand]⟩

theorem EncodedForm.reservedHc (opcode : Byte) :
    EncodedForm.Statement (.reservedHc opcode) := fun _ =>
  ⟨rfl, by simp [encode, Instr.isHostCommand]⟩

theorem EncodedForm.initializeRadio :
    EncodedForm.Statement .initializeRadio := fun _ =>
  ⟨rfl, by simp [encode, Instr.isHostCommand]⟩

theorem EncodedForm.setModeIdle :
    EncodedForm.Statement .setModeIdle := fun _ =>
  ⟨rfl, by simp [encode, Instr.isHostCommand]⟩

theorem EncodedForm.setModeReceive :
    EncodedForm.Statement .setModeReceive := fun _ =>
  ⟨rfl, by simp [encode, Instr.isHostCommand]⟩

theorem EncodedForm.setModeTransmit :
    EncodedForm.Statement .setModeTransmit := fun _ =>
  ⟨rfl, by simp [encode, Instr.isHostCommand]⟩

theorem EncodedForm.setTxAddress (nid : U32) :
    EncodedForm.Statement (.setTxAddress nid) := fun p => by
  simp [encode, encodedLength, Instr.isHostCommand, Machine.bytesLe32]

theorem EncodedForm.setRxAddress (nid : U32) :
    EncodedForm.Statement (.setRxAddress nid) := fun p => by
  simp [encode, encodedLength, Instr.isHostCommand, Machine.bytesLe32]

theorem EncodedForm.writeTxPayload (frame : Frame) :
    EncodedForm.Statement (.writeTxPayload frame) := fun p => by
  simp [encode, encodedLength, Instr.isHostCommand]

theorem EncodedForm.readRxPayload :
    EncodedForm.Statement .readRxPayload := fun _ =>
  ⟨rfl, by simp [encode, Instr.isHostCommand]⟩

theorem EncodedForm.strobe (st : Strobe) :
    EncodedForm.Statement (.strobe st) := fun _ =>
  ⟨rfl, by simp [encode, Instr.isHostCommand]⟩

theorem EncodedForm.writeReg (a v : Byte) :
    EncodedForm.Statement (.writeReg a v) := fun _ =>
  ⟨rfl, by simp [encode, Instr.isHostCommand]⟩

theorem EncodedForm.burstWrite (a : Byte) (bytes : List Byte) :
    EncodedForm.Statement (.burstWrite a bytes) := fun p => by
  simp only [encode, encodedLength, Instr.isHostCommand, List.length_cons]
  exact ⟨by omega, by simp⟩

theorem EncodedForm.readStatus (a : Byte) :
    EncodedForm.Statement (.readStatus a) := fun _ =>
  ⟨rfl, by simp [encode, Instr.isHostCommand]⟩

theorem EncodedForm.burstRead (a : Byte) (n : Nat) :
    EncodedForm.Statement (.burstRead a n) := fun _ =>
  ⟨rfl, by simp [encode, Instr.isHostCommand]⟩

theorem EncodedForm.csPulse (pattern : List CsItem) :
    EncodedForm.Statement (.csPulse pattern) := fun p => by
  simp only [encode, encodedLength, Instr.isHostCommand, List.length_cons, pattern_length]
  exact ⟨by omega, by simp⟩

theorem EncodedForm.delay (us : U32) :
    EncodedForm.Statement (.delay us) := fun p => by
  simp [encode, encodedLength, Instr.isHostCommand, Machine.bytesLe32]

theorem EncodedForm.discovery (ownId : Byte) :
    EncodedForm.Statement (.discovery ownId) := fun p => by
  simp [encode, encodedLength, Instr.isHostCommand]

theorem EncodedForm.joinRequest (pr : PairingRecord) :
    EncodedForm.Statement (.joinRequest pr) := fun p => by
  simp [encode, encodedLength, Instr.isHostCommand]

theorem EncodedForm.ack (mainType mainId ownId : Byte) :
    EncodedForm.Statement (.ack mainType mainId ownId) := fun p => by
  simp [encode, encodedLength, Instr.isHostCommand]

theorem EncodedForm.setSpeed (mainType mainId ownId speed : Byte) :
    EncodedForm.Statement (.setSpeed mainType mainId ownId speed) := fun p => by
  simp [encode, encodedLength, Instr.isHostCommand]

theorem EncodedForm.setTimer (mainType mainId ownId speed timer : Byte) :
    EncodedForm.Statement (.setTimer mainType mainId ownId speed timer) := fun p => by
  simp [encode, encodedLength, Instr.isHostCommand]

theorem EncodedForm.joinOpen (frame : Frame) :
    EncodedForm.Statement (.joinOpen frame) := fun p => by
  simp [encode, encodedLength, Instr.isHostCommand]

theorem EncodedForm.anyResponse (frame : Frame) :
    EncodedForm.Statement (.anyResponse frame) := fun p => by
  simp [encode, encodedLength, Instr.isHostCommand]

end Sys2Proof.Laws
end

