-- ==== Sys2Proof/Tests/Slice0.lean ====
section
/-! SUPPORT. Tests. The expected values are those of spec/95_test_vectors.md (named by its vector ids) or are worked out
by hand from the rule named. -/

namespace Sys2Proof.Tests

open Sys2Proof.Machine

-- One theorem after the other: each evaluation in a thread of its own would ask for more memory than there is.
set_option Elab.async false

/-! ### States and helpers -/

/-- `REC` of 95_test_vectors.md section 0. -/
def record : PairingRecord := { networkId := 0x04030201, mainType := 0x01, mainId := 0x9A, ownId := 0x42 }

/-- Sixteen bytes as a frame. -/
def fr (l : List Byte) : Frame := frameOfBytes l

def d42 : List Byte := [0x01, 0x00, 0x03, 0x42, 0xFA, 0x0C, 0x04, 0xA5, 0x5A, 0x5A, 0xA5, 0, 0, 0, 0, 0]
def joinJ : List Byte := [0x01, 0x9A, 0x03, 0x42, 0xFA, 0x04, 0x04, 0x01, 0x02, 0x03, 0x04, 0, 0, 0, 0, 0]
def ackK : List Byte := [0x01, 0x9A, 0x03, 0x42, 0xFA, 0x0B, 0, 0, 0, 0, 0, 0, 0, 0, 0, 0]
def cmd20 : List Byte := [0x01, 0x9A, 0x03, 0x42, 0xFA, 0x02, 0x01, 0x02, 0, 0, 0, 0, 0, 0, 0, 0]
def cmd2A : List Byte := [0x01, 0x9A, 0x03, 0x42, 0xFA, 0x03, 0x02, 0x02, 0x0A, 0, 0, 0, 0, 0, 0, 0]
def rOpen : List Byte := [0x03, 0x42, 0x01, 0x9A, 0xFA, 0x06, 0x04, 0x01, 0x02, 0x03, 0x04, 0, 0, 0, 0, 0]
def rAny : List Byte := [0x03, 0x42, 0x01, 0x9A, 0xFA, 0x05, 0x01, 0x02, 0, 0, 0, 0, 0, 0, 0, 0]

/-- Power-on with TC, the radio agent still for the next 16 transactions. -/
def powered : State :=
  { State.powerOn Params.tc with
    draws := { Draws.reset with gaps := List.replicate 16 [] } }

/-- `S_READY`, but for its history. -/
def ready : State :=
  { powered with
    engine := { Engine.reset with link := .ready }
    radio := { Radio.reset with pktlen := 16 } }

/-- An operation in some phase (`W(op, start)` of section 2.3 when the phase is WaitingResponse), with these bytes in the
RX FIFO and this next clock sample. -/
def during (phase : OpState) (op : Op) (start now : U32) (fifo : List Byte) : State :=
  { ready with
    engine := { ready.engine with
      opstate := phase, op := op, maxRetries := 3, timeoutMs := 1000, attemptStart := start, txBuf := fr cmd20 }
    radio := { ready.radio with mode := .rx, rxfifo := fifo }
    draws := { powered.draws with clock := [now], status := [BitVec.ofNat 8 fifo.length] } }

def waiting (op : Op) (start now : U32) (fifo : List Byte) : State := during .waitingResponse op start now fifo

/-- A state with these radio contents. -/
def withRadio (mode : RadioMode) (tx rx : List Byte) : State :=
  { ready with
    radio := { ready.radio with mode := mode, txfifo := tx, rxfifo := rx }
    draws := { powered.draws with status := [BitVec.ofNat 8 rx.length] } }

/-- The instruction answers a next state that passes the check. -/
def runs (i : Instr) (s : State) (check : State → Bool) : Bool :=
  match exec i s with
  | .next t => check t
  | .fault _ | .refused _ => false

/-- The step answers a next state that passes the check. -/
def steps (s : State) (check : State → Bool) : Bool :=
  match step s with
  | .next t => check t
  | .fault _ | .refused _ => false

/-! ### Ill-formed instructions are refused by each check -/

theorem test_wf_reserved_is_no_command : (Instr.reservedHc 0x08).wellFormed Params.tc = false := by decide +kernel
theorem test_wf_reserved_ok : (Instr.reservedHc 0x09).wellFormed Params.tc = true := by decide +kernel
theorem test_wf_burst_read_count : (Instr.burstRead 0 256).wellFormed Params.tc = false := by decide +kernel
theorem test_wf_discovery_low : (Instr.discovery 0).wellFormed Params.tc = false := by decide +kernel
theorem test_wf_discovery_high : (Instr.discovery 255).wellFormed Params.tc = false := by decide +kernel
theorem test_wf_set_timer_zero : (Instr.setTimer 1 2 3 4 0).wellFormed Params.tc = false := by decide +kernel
theorem test_wf_join_open_code : (Instr.joinOpen (fr rAny)).wellFormed Params.tc = false := by decide +kernel

/-! ### Words written out from the encodings -/

/-- R61, R62, R67: every host command. -/
theorem test_decode_hc :
    decode Params.tc .hc [0x01] = .ok (.init, []) ∧
    decode Params.tc .hc [0x02] = .ok (.startPairing, []) ∧
    decode Params.tc .hc [0x03, 0x01, 0x02, 0x03, 0x04, 0x01, 0x9A, 0x42, 0x02, 0x0A] =
      .ok (.startSetSpeed record 0x02 0x0A, []) ∧
    decode Params.tc .hc [0x04, 0x05] = .ok (.process, [0x05]) ∧
    decode Params.tc .hc [0x05] = .ok (.isOperationComplete, []) ∧
    decode Params.tc .hc [0x06] = .ok (.lastOperationSuccessful, []) ∧
    decode Params.tc .hc [0x07] = .ok (.getPairingResult, []) ∧
    decode Params.tc .hc [0x08] = .ok (.resetOperationState, []) ∧
    decode Params.tc .hc [0x00] = .ok (.reservedHc 0x00, []) ∧
    decode Params.tc .hc [0xFF] = .ok (.reservedHc 0xFF, []) := by decide +kernel

/-- R66: every micro-operation. -/
theorem test_decode_mu :
    decode Params.tc .mu [0x21] = .ok (.initializeRadio, []) ∧
    decode Params.tc .mu [0x22] = .ok (.setModeIdle, []) ∧
    decode Params.tc .mu [0x23] = .ok (.setModeReceive, []) ∧
    decode Params.tc .mu [0x24] = .ok (.setModeTransmit, []) ∧
    decode Params.tc .mu [0x25, 0x01, 0x02, 0x03, 0x04] = .ok (.setTxAddress 0x04030201, []) ∧
    decode Params.tc .mu [0x26, 0xA5, 0x5A, 0x5A, 0xA5] = .ok (.setRxAddress 0xA55A5AA5, []) ∧
    decode Params.tc .mu (0x27 :: cmd20) = .ok (.writeTxPayload (fr cmd20), []) ∧
    decode Params.tc .mu [0x28] = .ok (.readRxPayload, []) := by decide +kernel

/-- R65, R75 (the strobe numbers are those of Params.tc): every bus transaction. -/
theorem test_decode_bt :
    decode Params.tc .bt [0, 0x34] = .ok (.strobe .rx, []) ∧
    decode Params.tc .bt [1, 0x09, 0xA5] = .ok (.writeReg 0x09 0xA5, []) ∧
    decode Params.tc .bt [2, 0x3F, 1, 2, 3] = .ok (.burstWrite 0x3F [1, 2, 3], []) ∧
    decode Params.tc .bt [3, 0x3B] = .ok (.readStatus 0x3B, []) ∧
    decode Params.tc .bt [4, 0x3F, 16] = .ok (.burstRead 0x3F 16, []) ∧
    decode Params.tc .bt [5, 0, 0, 0, 0, 0, 2, 40, 0, 0, 0, 1, 0, 0, 0, 0] =
      .ok (.csPulse [.level false, .wait 40, .level true], []) ∧
    decode Params.tc .bt [6, 50, 0, 0, 0] = .ok (.delay 50, []) := by decide +kernel

/-- R94–R99: every frame. -/
theorem test_decode_f16 :
    decode Params.tc .frameSent d42 = .ok (.discovery 0x42, []) ∧
    decode Params.tc .frameSent joinJ = .ok (.joinRequest record, []) ∧
    decode Params.tc .frameSent ackK = .ok (.ack 0x01 0x9A 0x42, []) ∧
    decode Params.tc .frameSent cmd20 = .ok (.setSpeed 0x01 0x9A 0x42 0x02, []) ∧
    decode Params.tc .frameSent cmd2A = .ok (.setTimer 0x01 0x9A 0x42 0x02 0x0A, []) ∧
    decode Params.tc .frameDiscover rOpen = .ok (.joinOpen (fr rOpen), []) ∧
    decode Params.tc .frameDiscover rAny = .ok (.anyResponse (fr rAny), []) ∧
    decode Params.tc .frameResponse rOpen = .ok (.anyResponse (fr rOpen), []) := by decide +kernel

/-- R70, R100: words that stand for nothing are rejected by name. -/
theorem test_decode_rejects :
    decode Params.tc .hc [] = .error .noBytes ∧
    decode Params.tc .hc [0x03, 0x01, 0x02] = .error .truncated ∧
    decode Params.tc .mu [0x29] = .error .unknownMicroOp ∧
    decode Params.tc .mu [0x22, 0x00] = .error .badLength ∧
    decode Params.tc .bt [0, 0x00] = .error .unknownStrobe ∧
    decode Params.tc .bt [7] = .error .unknownBusKind ∧
    decode Params.tc .bt [5, 3, 0, 0, 0, 0] = .error .badPattern ∧
    decode Params.tc .frameSent rOpen = .error .notASentFrame := by decide +kernel

/-- The opcode table's numbering of a word's bits: byte 0 is bits 7..0. -/
theorem test_table_words :
    decodeTableWord 80 0x0A02429A010403020103 = some (.startSetSpeed record 0x02 0x0A) ∧
    decodeTableWord 8 0x28 = some .readRxPayload ∧ decodeTableWord 8 0x25 = some (.setTxAddress 0) ∧
    decodeTableWord 8 0x09 = some (.reservedHc 0x09) := by decide +kernel

/-- A word placed for the next step is what the next step runs: `IS_OPERATION_COMPLETE` right after reset is
`Refused(LinkNotReady)` (R140). -/
theorem test_placed_word_runs :
    steps (State.reset.withFetchWord 8 0x05) (fun t =>
      decide (t.outcome = .refused .linkNotReady) && decide (t.inputs = [])) = true := by decide +kernel

/-! ### Host commands -/

/-- V-D1, V-E2's start state. -/
theorem test_init :
    runs .init { powered with draws := { powered.draws with initOk := [true] } } (fun t =>
      decide (t.engine.link = .ready) && decide (t.radio.mode = .idle) && decide (t.radio.pktlen = 16) &&
      decide (busTrace t.history =
        [.csPulse Params.tc.resetSequence, .strobe .res, .burstWrite 0 Params.tc.configTable, .writeReg 0x06 16]) &&
      decide (t.outcome = .ok [])) = true := by decide +kernel

/-- V-E22. -/
theorem test_init_fails :
    runs .init { powered with draws := { powered.draws with initOk := [false] } } (fun t =>
      decide (t.engine.link = .fault) && decide (causeTrace t.history = [.setupFault]) &&
      decide (t.outcome = .setupFault) && decide (t.refusedMark = false)) = true := by decide +kernel

/-- V-E2: the draw 0x41 stands for the id 0x42. -/
theorem test_start_pairing :
    runs .startPairing { ready with draws := { ready.draws with ownId := [0x41] } } (fun t =>
      decide (t.engine.opstate = .transmitting) && decide (t.engine.op = .pairingDiscover 0x42) &&
      decide (t.engine.maxRetries = 3) && decide (t.engine.timeoutMs = 1000) && decide (t.engine.txBuf = fr d42) &&
      decide (t.radio.addr = 0xA5) && decide (t.radio.mode = .tx) && decide (t.radio.txfifo = d42)) = true := by
  decide +kernel

/-- V-E21. -/
theorem test_start_pairing_refused :
    runs .startPairing powered (fun t =>
      decide (t.outcome = .refused .linkNotReady) && t.refusedMark && decide (t.engine = powered.engine)) = true := by
  decide +kernel

/-- P3's first command: `CMD2A` on the air, the filter at the record's low byte. -/
theorem test_start_set_speed :
    runs (.startSetSpeed record 2 10) ready (fun t =>
      decide (t.engine.txBuf = fr cmd2A) && decide (t.engine.op = .setSpeed record 2 10) &&
      decide (t.radio.addr = 0x01) && decide (t.radio.txfifo = cmd2A) &&
      decide ((busTrace t.history).length = 8)) = true := by decide +kernel

/-- V-E3. -/
theorem test_start_set_speed_busy :
    runs (.startSetSpeed record 2 0) (during .transmitting (.pairingDiscover 0x42) 0 0 []) (fun t =>
      decide (t.outcome = .busy) && decide (t.history = []) &&
      decide (t.engine.op = .pairingDiscover 0x42)) = true := by decide +kernel

/-- V-E8 (elapsed time wraps): a timeout with budget left. -/
theorem test_process_timeout :
    runs .process (waiting (.setSpeed record 2 0) 0xFFFFFF00 0x000002E8 []) (fun t =>
      decide (t.engine.attempts = 1) && decide (t.engine.opstate = .transmitting) &&
      decide (t.history = [.bus (.readStatus 0x3B 0), .cause .noResponse, .bus (.strobe .idle), .bus (.delay 50),
        .bus (.strobe .ftx), .bus (.burstWrite 0x3F cmd20), .bus (.strobe .tx), .bus (.delay 50)])) = true := by
  decide +kernel

/-- V-E14. -/
theorem test_process_join_open :
    runs .process (waiting (.pairingDiscover 0x42) 100 200 rOpen) (fun t =>
      decide (t.engine.op = .pairingJoin 0x42 record) && decide (t.engine.opstate = .transmitting) &&
      decide (t.radio.addr = 0x01) && decide (t.engine.txBuf = fr joinJ) &&
      decide (busTrace t.history = [.readStatus 0x3B 16, .burstRead 0x3F rOpen, .strobe .frx, .writeReg 0x09 0x01,
        .writeReg 0x09 0x01, .strobe .idle, .delay 50, .strobe .ftx, .burstWrite 0x3F joinJ, .strobe .tx,
        .delay 50])) = true := by decide +kernel

/-- R124: 1 in OperationComplete, 0 in the phase before it. -/
theorem test_is_operation_complete :
    runs .isOperationComplete (during .operationComplete (.setSpeed record 2 0) 0 0 []) (fun t =>
      decide (t.outcome = .ok [1])) = true ∧
    runs .isOperationComplete (waiting (.setSpeed record 2 0) 0 0 []) (fun t => decide (t.outcome = .ok [0])) = true := by
  decide +kernel

/-- V-E25. -/
theorem test_last_operation_successful :
    runs .lastOperationSuccessful ready (fun t => decide (t.outcome = .ok [0])) = true := by decide +kernel

/-- V-E17: the record of a pairing that succeeded. -/
theorem test_get_pairing_result :
    runs .getPairingResult
      { ready with
        engine := { ready.engine with opstate := .operationComplete, op := .pairingAck 0x42 record, success := true } }
      (fun t => decide (t.outcome = .ok [0x01, 0x01, 0x02, 0x03, 0x04, 0x01, 0x9A, 0x42])) = true := by decide +kernel

/-- E9: no record after a set-speed that succeeded. -/
theorem test_get_pairing_result_none :
    runs .getPairingResult
      { ready with
        engine := { ready.engine with
          opstate := .operationComplete, op := .setSpeed record 2 0, success := true } }
      (fun t => decide (t.outcome = .ok [0])) = true := by decide +kernel

/-- V-E19: `success` and the buffers stay. -/
theorem test_reset_operation_state :
    runs .resetOperationState
      { waiting (.setSpeed record 2 0) 7 0 rAny with
        engine := { (waiting (.setSpeed record 2 0) 7 0 rAny).engine with success := true } }
      (fun t => decide (t.engine = { ready.engine with success := true, txBuf := fr cmd20 }) &&
        decide (t.radio.mode = .idle) && decide (t.radio.rxfifo = rAny)) = true := by decide +kernel

/-- V-E24. -/
theorem test_reserved_opcode :
    runs (.reservedHc 0x09) ready (fun t =>
      decide (t.outcome = .refused .reservedOpcode) && t.refusedMark && decide (t.engine = ready.engine)) = true := by
  decide +kernel

/-- R138: after a fault a reserved opcode is refused as every other command but `INIT` is. -/
theorem test_reserved_opcode_in_fault :
    runs (.reservedHc 0x09) { powered with engine := { powered.engine with link := .fault } } (fun t =>
      decide (t.outcome = .refused .linkNotReady) && t.refusedMark) = true := by decide +kernel

/-! ### Driver micro-operations -/

/-- V-D2. -/
theorem test_initialize_false :
    runs .initializeRadio
      { withRadio .tx cmd20 rAny with draws := { powered.draws with initOk := [false] } }
      (fun t => decide (t.outcome = .flag false) && decide (t.radio.mode = .idle) && decide (t.radio.txfifo = []) &&
        decide (t.radio.rxfifo = []) && decide (t.radio.pktlen = 16)) = true := by decide +kernel

/-- V-D3. -/
theorem test_set_mode_idle :
    runs .setModeIdle (withRadio .rx [] [1]) (fun t =>
      decide (t.radio.mode = .idle) && decide (t.radio.rxfifo = [1]) &&
      decide (t.history = [.bus (.strobe .idle), .bus (.delay 50)])) = true := by decide +kernel

/-- V-D5. -/
theorem test_set_mode_receive_sends :
    runs .setModeReceive
      { withRadio .tx cmd20 [] with draws := { powered.draws with txSent := [true] } }
      (fun t => decide (t.radio.mode = .rx) && decide (t.radio.txfifo = []) &&
        decide (t.history = [.bus (.strobe .rx), .airTx cmd20, .bus (.delay 50)])) = true := by decide +kernel

/-- V-D6. -/
theorem test_set_mode_receive_cuts_off :
    runs .setModeReceive
      { withRadio .tx cmd20 [] with draws := { powered.draws with txSent := [false] } }
      (fun t => decide (t.radio.mode = .rx) && decide (t.radio.txfifo = []) &&
        decide (t.history = [.bus (.strobe .rx), .lost, .bus (.delay 50)])) = true := by decide +kernel

/-- V-D15. -/
theorem test_set_mode_transmit :
    runs .setModeTransmit (withRadio .idle cmd20 []) (fun t =>
      decide (t.radio.mode = .tx) && decide (t.radio.txfifo = cmd20) &&
      decide (t.history = [.bus (.strobe .tx), .bus (.delay 50)])) = true := by decide +kernel

/-- V-D7. -/
theorem test_set_tx_address :
    runs (.setTxAddress 0x04030201) ready (fun t =>
      decide (t.radio.addr = 0x01) && decide (t.history = [.bus (.writeReg 0x09 0x01)])) = true := by decide +kernel

/-- V-D7b. -/
theorem test_set_rx_address :
    runs (.setRxAddress 0xA55A5AA5) ready (fun t => decide (t.radio.addr = 0xA5)) = true := by decide +kernel

/-- V-D14. -/
theorem test_write_tx_payload :
    runs (.writeTxPayload (fr cmd20)) (withRadio .rx [0x09] []) (fun t =>
      decide (t.radio.mode = .idle) && decide (t.radio.txfifo = cmd20) &&
      decide (t.history = [.bus (.strobe .idle), .bus (.delay 50), .bus (.strobe .ftx),
        .bus (.burstWrite 0x3F cmd20)])) = true := by decide +kernel

/-- V-D8: 18 bytes in the FIFO. -/
theorem test_read_rx_payload :
    runs .readRxPayload (withRadio .idle [] (rAny ++ [0x2C, 0x80])) (fun t =>
      decide (t.outcome = .flag true) && decide (t.engine.rxBuf = fr rAny) && decide (t.radio.rxfifo = []) &&
      decide (t.history = [.bus (.readStatus 0x3B 18), .bus (.burstRead 0x3F rAny), .bus (.strobe .frx)])) = true := by
  decide +kernel

/-- V-D10: 15 bytes stay where they are. -/
theorem test_read_rx_payload_short :
    runs .readRxPayload (withRadio .idle [] (rAny.take 15)) (fun t =>
      decide (t.outcome = .flag false) && decide (t.radio.rxfifo = rAny.take 15) &&
      decide (t.history = [.bus (.readStatus 0x3B 15)])) = true := by decide +kernel

/-! ### Bus transactions and the radio agent -/

/-- V-D19: the registers after the strobe are the draw. -/
theorem test_strobe_res :
    runs (.strobe .res)
      { withRadio .rx [9] [1, 2, 3] with
        draws := { powered.draws with chipRegs := [{ addr := 7, pktlen := 8, cfg := [(2, 5), (300, 6)] }] } }
      (fun t => decide (t.radio =
        { mode := .idle, txfifo := [], rxfifo := [], addr := 7, pktlen := 8, cfg := [(2, 5), (300, 6)] }))
      = true := by decide +kernel

/-- R75, R89: the receive flush leaves the transmit FIFO. -/
theorem test_strobe_frx :
    runs (.strobe .frx) (withRadio .rx [9] [1, 2, 3]) (fun t =>
      decide (t.radio.rxfifo = []) && decide (t.radio.txfifo = [9]) && decide (t.radio.mode = .rx)) = true := by
  decide +kernel

/-- R76: a register that is neither the filter nor the packet length. -/
theorem test_write_reg :
    runs (.writeReg 0x0D 0x21) ready (fun t =>
      decide (t.radio.cfg = [(0x0D, 0x21)]) && decide (t.radio.pktlen = 16)) = true := by decide +kernel

/-- R77: a burst over registers 5, 6 and 7, where 6 is the packet length. -/
theorem test_burst_write_registers :
    runs (.burstWrite 0x05 [1, 2, 3]) ready (fun t =>
      decide (t.radio.cfg = [(5, 1), (7, 3)]) && decide (t.radio.pktlen = 2)) = true := by decide +kernel

/-- R77: a burst to the transmit FIFO appends. -/
theorem test_burst_write_fifo :
    runs (.burstWrite 0x3F [1, 2]) (withRadio .idle [9] []) (fun t => decide (t.radio.txfifo = [9, 1, 2])) = true := by
  decide +kernel

/-- R78: the drawn byte does not show the count 3, so the status byte is one that does. -/
theorem test_read_status :
    runs (.readStatus 0x3B)
      { withRadio .idle [] [1, 2, 3] with draws := { powered.draws with status := [0x7F] } }
      (fun t => decide (t.outcome = .status 3) && decide (t.radio.rxfifo = [1, 2, 3])) = true := by decide +kernel

/-- R79. -/
theorem test_burst_read :
    runs (.burstRead 0x3F 2) (withRadio .idle [] [1, 2, 3]) (fun t =>
      decide (t.outcome = .bytes [1, 2]) && decide (t.radio.rxfifo = [3])) = true := by decide +kernel

/-- R79: one byte more than the FIFO holds. -/
theorem test_burst_read_faults :
    (match exec (.burstRead 0x3F 4) (withRadio .idle [] [1, 2, 3]) with
      | .fault f => decide (f = .burstReadPastFifo)
      | .next _ | .refused _ => false) = true := by decide +kernel

/-- R80. -/
theorem test_cs_pulse :
    runs (.csPulse [.level false, .wait 3]) ready (fun t =>
      decide (t.history = [.bus (.csPulse [.level false, .wait 3])]) && decide (t.radio = ready.radio)) = true := by
  decide +kernel

/-- R51, R80. -/
theorem test_delay :
    runs (.delay 50) ready (fun t =>
      decide (t.history = [.bus (.delay 50)]) && decide (t.radio = ready.radio)) = true := by decide +kernel

/-- V-D16. -/
theorem test_air_tx :
    steps { withRadio .tx cmd20 [] with inputs := [.air (.airTx false)] } (fun t =>
      decide (t.history = [.airTx cmd20]) && decide (t.radio.txfifo = []) && decide (t.radio.mode = .idle)) = true := by
  decide +kernel

/-- V-D18: 60 bytes and 4 more. -/
theorem test_air_rx_overflow :
    steps { withRadio .rx [] (List.replicate 60 7) with inputs := [.air (.airRx rAny)] } (fun t =>
      decide (t.radio.rxfifo = List.replicate 60 7 ++ rAny.take 4)) = true := by decide +kernel

/-- V-D17: not enabled in IDLE. -/
theorem test_air_rx_idle :
    steps { withRadio .idle [] [] with inputs := [.air (.airRx rAny)] } (fun t =>
      decide (t.radio.rxfifo = []) && decide (t.history = [])) = true := by decide +kernel

/-- R88: the radio agent can step between the last transaction of a poll and the cause it records. -/
theorem test_cause_after_air_rx :
    (recordCause .noResponse
      { withRadio .rx [] [] with draws := { powered.draws with gaps := [[.airRx [7]]] } }).history =
      [.airRx [7], .cause .noResponse] := by decide +kernel

/-! ### Frames -/

/-- V-C1, V-C2. -/
theorem test_discovery :
    runs (.discovery 0x42) ready (fun t => decide (t.outcome = .frame (fr d42))) = true := by decide +kernel

/-- V-C4. -/
theorem test_join_request :
    runs (.joinRequest record) ready (fun t => decide (t.outcome = .frame (fr joinJ))) = true := by decide +kernel

/-- V-C7. -/
theorem test_ack :
    runs (.ack 0x01 0x9A 0x42) ready (fun t => decide (t.outcome = .frame (fr ackK))) = true := by decide +kernel

/-- V-C8. -/
theorem test_set_speed :
    runs (.setSpeed 0x01 0x9A 0x42 2) ready (fun t => decide (t.outcome = .frame (fr cmd20))) = true := by decide +kernel

/-- V-C10. -/
theorem test_set_timer :
    runs (.setTimer 0x01 0x9A 0x42 2 10) ready (fun t => decide (t.outcome = .frame (fr cmd2A))) = true := by
  decide +kernel

/-- V-C17: the bytes that are not read may hold anything. -/
theorem test_join_open :
    runs (.joinOpen (fr [0xFF, 0xFF, 0x55, 0x66, 0x00, 0x06, 0x00, 0xEF, 0xBE, 0xAD, 0xDE, 0x11, 0x22, 0x33, 0x44, 0x55]))
      (waiting (.pairingDiscover 0x10) 0 0 []) (fun t => decide (t.outcome = .classified (.openMatch
        { networkId := 0xDEADBEEF, mainType := 0x55, mainId := 0x66, ownId := 0x10 }))) = true := by decide +kernel

/-- V-C18. -/
theorem test_any_response_mismatch :
    runs (.anyResponse (fr (List.replicate 16 0))) (waiting (.pairingDiscover 0x42) 0 0 []) (fun t =>
      decide (t.outcome = .classified .mismatch)) = true := by decide +kernel

/-- V-C19. -/
theorem test_any_response_accept :
    runs (.anyResponse (fr (List.replicate 16 0))) (waiting (.setSpeed record 2 0) 0 0 []) (fun t =>
      decide (t.outcome = .classified .accept)) = true := by decide +kernel

/-! ### Witnesses: states and operands that meet the premises of each statement, clause by clause

Each is named after its statement. The values at a range's end are taken where there is a range. -/

/-- The state an instruction gives. -/
def after (i : Instr) (s : State) : State :=
  match exec i s with
  | .next t => t
  | .fault _ | .refused _ => s

/-- The state a step gives. -/
def afterStep (s : State) : State :=
  match step s with
  | .next t => t
  | .fault _ | .refused _ => s

theorem exec_after {i : Instr} {s : State} (h : runs i s (fun _ => true) = true) : exec i s = .next (after i s) := by
  unfold after
  unfold runs at h
  split <;> simp_all

theorem step_after {s : State} (h : steps s (fun _ => true) = true) : step s = .next (afterStep s) := by
  unfold afterStep
  unfold steps at h
  split <;> simp_all

def discovering (start now : U32) (fifo : List Byte) : State := waiting (.pairingDiscover 0x42) start now fifo
def speeding (start now : U32) (fifo : List Byte) : State := waiting (.setSpeed record 2 0) start now fifo
def acking (start now : U32) (fifo : List Byte) : State := waiting (.pairingAck 0x42 record) start now fifo

/-- A state with the gate of `P_RX_GATE`, and this next sample of `line_ready`. -/
def gated (r : Bool) (s : State) : State :=
  { s with
    params := { s.params with rxGate := true }
    draws := { s.draws with ready := [r] } }

/-- A waiting state whose engine has counted this many attempts of this budget. -/
def counted (attempts budget : Byte) (s : State) : State :=
  { s with engine := { s.engine with attempts := attempts, maxRetries := budget } }

def faulted : State := { powered with engine := { powered.engine with link := .fault } }

theorem powered_quiet : powered.quiet 16 := ⟨[], rfl⟩

theorem frameWaiting_exact : (speeding 0 0 rAny).FrameWaiting :=
  ⟨by decide +kernel, .inl rfl, by decide +kernel, by decide +kernel⟩

theorem frameWaiting_gated : (gated true (speeding 0 0 (List.replicate 64 7))).FrameWaiting :=
  ⟨by decide +kernel, .inr ⟨[], rfl⟩, by decide +kernel, by decide +kernel⟩

theorem tc_wf : Params.tc.wf = true := by decide +kernel

theorem noFrame_partial (start now : U32) : (speeding start now (rAny.take 15)).NoFrame :=
  ⟨tc_wf, .inl rfl, ⟨_, rfl⟩, by show (rAny.take 15).length < 16; decide⟩

theorem noFrame_gated : (gated true (speeding 0 0 [])).NoFrame :=
  ⟨by decide +kernel, .inr ⟨[], rfl⟩, ⟨_, rfl⟩, by decide⟩

theorem gateShut (s : State) : (gated false s).GateShut := ⟨rfl, [], rfl⟩

theorem witness_RefusedCommandsOnlySetTheMark :
    (Instr.process.isHostCommand = true ∧ Instr.process ≠ .init ∧
      (Instr.reservedHc 0x09).isHostCommand = true ∧ Instr.reservedHc 0x09 ≠ .init ∧
      powered.engine.link ≠ .ready ∧ faulted.engine.link ≠ .ready) ∧
    faulted.engine.link = .fault ∧
    ((speeding 0 0 []).engine.link = .ready ∧ (speeding 0 0 []).engine.opstate ≠ .idle) :=
  ⟨⟨rfl, by decide, rfl, by decide, by decide, by decide⟩, rfl, rfl, by decide⟩

theorem witness_BusyStartChangesNothing : ∀ ph ∈ [OpState.transmitting, .waitingResponse, .operationComplete],
    (during ph (.setSpeed record 2 0) 0 0 []).engine.link = .ready ∧
      (during ph (.setSpeed record 2 0) 0 0 []).engine.opstate ≠ .idle := by decide +kernel

theorem witness_StartPairingSendsDiscovery :
    ready.engine.link = .ready ∧ ready.engine.opstate = .idle ∧
      { ready with draws := { ready.draws with ownId := [253] } }.draws.ownId = (253 : Fin 254) :: [] ∧ ready.quiet 8 :=
  ⟨rfl, rfl, rfl, _, rfl⟩

theorem witness_StartSetSpeedSendsCommand :
    ready.engine.link = .ready ∧ ready.engine.opstate = .idle ∧ ready.quiet 8 := ⟨rfl, rfl, _, rfl⟩

theorem witness_ProcessRestsOutsideAnAttempt :
    (ready.engine.link = .ready ∧ ready.engine.opstate = .idle) ∧
    (during .operationComplete (.setSpeed record 2 0) 0 0 []).engine.opstate = .operationComplete := ⟨⟨rfl, rfl⟩, rfl⟩

/-- The second state: the frame has not yet gone out. -/
theorem witness_ProcessTransmittingStartsTheWait :
    (during .transmitting (.setSpeed record 2 0) 0 9 []).engine.link = .ready ∧
      (during .transmitting (.setSpeed record 2 0) 0 9 []).engine.opstate = .transmitting ∧
      (during .transmitting (.setSpeed record 2 0) 0 9 []).draws.clock = 9 :: [] ∧
      (during .transmitting (.setSpeed record 2 0) 0 9 []).quiet 2 ∧
    ({ withRadio .tx cmd20 [] with engine := (during .transmitting (.setSpeed record 2 0) 0 9 []).engine }.engine.opstate =
        .transmitting ∧
      { withRadio .tx cmd20 [] with engine := (during .transmitting (.setSpeed record 2 0) 0 9 []).engine }.quiet 2 ∧
      pendingResolved
        { withRadio .tx cmd20 [] with engine := (during .transmitting (.setSpeed record 2 0) 0 9 []).engine }.radio
        [.lost]) :=
  ⟨rfl, rfl, rfl, ⟨_, rfl⟩, rfl, ⟨_, rfl⟩, by simp [pendingResolved, withRadio, cmd20]⟩

/-- 999 of 1000 milliseconds have gone, the clock wrapping on the way. -/
theorem witness_PollWithoutFrameWaits :
    (speeding 0xFFFFFF00 0x2E7 (rAny.take 15)).engine.link = .ready ∧
      (speeding 0xFFFFFF00 0x2E7 (rAny.take 15)).engine.opstate = .waitingResponse ∧
      (speeding 0xFFFFFF00 0x2E7 (rAny.take 15)).NoFrame ∧
      (speeding 0xFFFFFF00 0x2E7 (rAny.take 15)).draws.clock = 0x2E7 :: [] ∧
      ((0x2E7 : U32) - (speeding 0xFFFFFF00 0x2E7 (rAny.take 15)).engine.attemptStart).toNat = 999 ∧
      (speeding 0xFFFFFF00 0x2E7 (rAny.take 15)).engine.timeoutMs.toNat = 1000 :=
  ⟨rfl, rfl, noFrame_partial _ _, rfl, by decide, by decide⟩

/-- A whole frame behind a shut gate, at 999 of 1000 milliseconds. -/
theorem witness_PollWithoutFrameWaits_gate :
    (gated false (speeding 0 999 rAny)).engine.link = .ready ∧
      (gated false (speeding 0 999 rAny)).engine.opstate = .waitingResponse ∧
      (gated false (speeding 0 999 rAny)).GateShut ∧ (gated false (speeding 0 999 rAny)).draws.clock = 999 :: [] ∧
      ((999 : U32) - (gated false (speeding 0 999 rAny)).engine.attemptStart).toNat <
        (gated false (speeding 0 999 rAny)).engine.timeoutMs.toNat :=
  ⟨rfl, rfl, gateShut _, rfl, by decide⟩

/-- 1000 of 1000 milliseconds have gone; the second of three attempts is over. -/
theorem witness_TimeoutWithBudgetResends :
    (counted 1 3 (speeding 0 1000 (rAny.take 15))).engine.link = .ready ∧
      (counted 1 3 (speeding 0 1000 (rAny.take 15))).engine.opstate = .waitingResponse ∧
      (counted 1 3 (speeding 0 1000 (rAny.take 15))).NoFrame ∧
      (counted 1 3 (speeding 0 1000 (rAny.take 15))).draws.clock = 1000 :: [] ∧
      (counted 1 3 (speeding 0 1000 (rAny.take 15))).engine.timeoutMs.toNat ≤
        ((1000 : U32) - (counted 1 3 (speeding 0 1000 (rAny.take 15))).engine.attemptStart).toNat ∧
      ((counted 1 3 (speeding 0 1000 (rAny.take 15))).engine.attempts + 1).toNat <
        (counted 1 3 (speeding 0 1000 (rAny.take 15))).engine.maxRetries.toNat :=
  ⟨rfl, rfl, ⟨by decide +kernel, .inl rfl, ⟨_, rfl⟩, by decide⟩, rfl, by decide, by decide⟩

/-- The first of two attempts is over, a frame waiting behind a shut gate. -/
theorem witness_TimeoutWithBudgetResends_gate :
    (counted 0 2 (gated false (speeding 0 1000 rAny))).engine.link = .ready ∧
      (counted 0 2 (gated false (speeding 0 1000 rAny))).engine.opstate = .waitingResponse ∧
      (counted 0 2 (gated false (speeding 0 1000 rAny))).GateShut ∧
      (counted 0 2 (gated false (speeding 0 1000 rAny))).draws.clock = 1000 :: [] ∧
      (counted 0 2 (gated false (speeding 0 1000 rAny))).engine.timeoutMs.toNat ≤
        ((1000 : U32) - (counted 0 2 (gated false (speeding 0 1000 rAny))).engine.attemptStart).toNat ∧
      ((counted 0 2 (gated false (speeding 0 1000 rAny))).engine.attempts + 1).toNat <
        (counted 0 2 (gated false (speeding 0 1000 rAny))).engine.maxRetries.toNat :=
  ⟨rfl, rfl, gateShut _, rfl, by decide, by decide⟩

/-- The last of three attempts, and the one attempt of the ack phase. -/
theorem witness_TimeoutWithoutBudgetFails :
    ∀ s ∈ [counted 2 3 (speeding 0 1000 []), counted 0 1 (acking 0 1000 [])],
      s.engine.link = .ready ∧ s.engine.opstate = .waitingResponse ∧ s.NoFrame ∧ s.draws.clock = 1000 :: [] ∧
        s.engine.timeoutMs.toNat ≤ ((1000 : U32) - s.engine.attemptStart).toNat ∧
        s.engine.maxRetries.toNat ≤ (s.engine.attempts + 1).toNat := by
  intro s hs
  simp only [List.mem_cons, List.not_mem_nil, or_false] at hs
  obtain rfl | rfl := hs <;>
    exact ⟨rfl, rfl, ⟨by decide +kernel, .inl rfl, ⟨_, rfl⟩, by decide⟩, rfl, by decide, by decide⟩

/-- The same behind a shut gate. -/
theorem witness_TimeoutWithoutBudgetFails_gate :
    ∀ s ∈ [counted 2 3 (gated false (speeding 0 1000 rAny)), counted 0 1 (gated false (acking 0 1000 []))],
      s.engine.link = .ready ∧ s.engine.opstate = .waitingResponse ∧ s.GateShut ∧ s.draws.clock = 1000 :: [] ∧
        s.engine.timeoutMs.toNat ≤ ((1000 : U32) - s.engine.attemptStart).toNat ∧
        s.engine.maxRetries.toNat ≤ (s.engine.attempts + 1).toNat := by
  intro s hs
  simp only [List.mem_cons, List.not_mem_nil, or_false] at hs
  obtain rfl | rfl := hs <;> exact ⟨rfl, rfl, ⟨rfl, [], rfl⟩, rfl, by decide, by decide⟩

/-- Sixteen bytes in SetSpeed; in PairingAck a frame past the gate. -/
theorem witness_AnyFrameCompletesSetSpeedAndAck :
    ((speeding 0 0 rAny).engine.link = .ready ∧ (speeding 0 0 rAny).engine.opstate = .waitingResponse ∧
      (speeding 0 0 rAny).FrameWaiting ∧ (speeding 0 0 rAny).engine.op = .setSpeed record 2 0) ∧
    ((acking 0 0 rAny).FrameWaiting ∧ (acking 0 0 rAny).engine.op = .pairingAck 0x42 record) ∧
    (gated true (speeding 0 0 (List.replicate 64 7))).FrameWaiting ∧
    (speeding 0 0 rAny).params.idleOnResponseComplete = true :=
  ⟨⟨rfl, rfl, frameWaiting_exact, rfl⟩,
    ⟨⟨by decide +kernel, .inl rfl, by decide +kernel, by decide +kernel⟩, rfl⟩, frameWaiting_gated, rfl⟩

theorem witness_DiscoveryMismatchFails :
    (discovering 0 0 rAny).engine.link = .ready ∧ (discovering 0 0 rAny).engine.opstate = .waitingResponse ∧
      (discovering 0 0 rAny).FrameWaiting ∧ (discovering 0 0 rAny).engine.op = .pairingDiscover 0x42 ∧
      (discovering 0 0 rAny).radio.rxfifo[5]? ≠ some (discovering 0 0 rAny).params.codeJoinOpen :=
  ⟨rfl, rfl, ⟨by decide +kernel, .inl rfl, by decide +kernel, by decide +kernel⟩, rfl, by decide +kernel⟩

/-- The response and two bytes more. -/
theorem witness_DiscoveryMatchEntersJoin :
    (discovering 0 0 (rOpen ++ [7, 8])).engine.link = .ready ∧
      (discovering 0 0 (rOpen ++ [7, 8])).engine.opstate = .waitingResponse ∧
      (discovering 0 0 (rOpen ++ [7, 8])).FrameWaiting ∧
      (discovering 0 0 (rOpen ++ [7, 8])).engine.op = .pairingDiscover 0x42 ∧
      (discovering 0 0 (rOpen ++ [7, 8])).radio.rxfifo = (fr rOpen).toList ++ [7, 8] ∧
      (fr rOpen)[5] = (discovering 0 0 (rOpen ++ [7, 8])).params.codeJoinOpen :=
  ⟨rfl, rfl, ⟨by decide +kernel, .inl rfl, by decide +kernel, by decide +kernel⟩, rfl, by decide +kernel,
    by decide +kernel⟩

theorem witness_JoinResponseEntersAck :
    (waiting (.pairingJoin 0x42 record) 0 0 rAny).engine.link = .ready ∧
      (waiting (.pairingJoin 0x42 record) 0 0 rAny).engine.opstate = .waitingResponse ∧
      (waiting (.pairingJoin 0x42 record) 0 0 rAny).FrameWaiting ∧
      (waiting (.pairingJoin 0x42 record) 0 0 rAny).engine.op = .pairingJoin 0x42 record :=
  ⟨rfl, rfl, ⟨by decide +kernel, .inl rfl, by decide +kernel, by decide +kernel⟩, rfl⟩

/-- A state in the middle of a pairing meets the invariant. -/
theorem witness_ProcessNeverFaults : (discovering 0 1000 rOpen).Inv where
  params_wf := by decide +kernel
  idle_iff_none := ⟨fun h => (nomatch h), fun h => (nomatch h)⟩
  link_ready _ := rfl
  budget_pos _ := by decide
  attempts_below _ := by decide
  attempts_le := by decide
  discover_id ownId h := by cases h; decide
  join_id _ _ h := nomatch h
  ack_id _ _ h := nomatch h
  ack_budget _ _ h := nomatch h
  rxfifo_le := by decide +kernel
  cfg_wf := rfl

theorem witness_IsOperationCompleteReports : ready.engine.link = .ready := rfl

theorem witness_LastOperationSuccessfulReports : ready.engine.link = .ready := rfl

/-- The state a pairing ends in, and each way of having no result. -/
theorem witness_GetPairingResultReports :
    (∃ s : State, s.engine.link = .ready ∧ s.engine.opstate = .operationComplete ∧ s.engine.success = true ∧
      s.engine.op = .pairingAck 0x42 record) ∧
    (ready.engine.link = .ready ∧ ready.engine.opstate ≠ .operationComplete) ∧
    ((during .operationComplete (.pairingAck 0x42 record) 0 0 []).engine.link = .ready ∧
      (during .operationComplete (.pairingAck 0x42 record) 0 0 []).engine.success = false) ∧
    ∃ s : State, s.engine.link = .ready ∧ s.engine.opstate = .operationComplete ∧ s.engine.success = true ∧
      ∀ ownId pr, s.engine.op ≠ .pairingAck ownId pr :=
  ⟨⟨{ ready with
      engine := { ready.engine with opstate := .operationComplete, success := true, op := .pairingAck 0x42 record } },
    rfl, rfl, rfl, rfl⟩, ⟨rfl, by decide⟩, ⟨rfl, rfl⟩,
    { ready with
      engine := { ready.engine with opstate := .operationComplete, success := true, op := .setSpeed record 2 0 } },
    rfl, rfl, rfl, fun _ _ h => (nomatch h)⟩

theorem witness_ResetReturnsToIdle : (speeding 0 0 rAny).engine.link = .ready ∧ (speeding 0 0 rAny).quiet 2 ∧
    (withRadio .tx cmd20 []).engine.link = .ready ∧ (withRadio .tx cmd20 []).quiet 2 := ⟨rfl, ⟨_, rfl⟩, rfl, _, rfl⟩

theorem witness_ResetIsIdempotent : (speeding 0 0 rAny).engine.link = .ready ∧
    exec .resetOperationState (speeding 0 0 rAny) = .next (after .resetOperationState (speeding 0 0 rAny)) :=
  ⟨rfl, exec_after (by decide +kernel)⟩

/-- Right after power-on, and again in READY / Idle. -/
theorem witness_InitBringsUpTheLink :
    ∀ s ∈ [{ powered with draws := { powered.draws with initOk := [false] } }, ready],
      s.params.wf = true ∧ s.engine.link ≠ .fault ∧ ¬(s.engine.link = .ready ∧ s.engine.opstate ≠ .idle) := by
  decide +kernel

/-- Registers 0 and 5 of the test configuration's table, whose register 6 is the packet length; and a chip whose filter
is the last register but one that the table covers. -/
theorem witness_InitWritesTheConfigTable :
    ready.params.wf = true ∧ ready.engine.link ≠ .fault ∧
      ¬(ready.engine.link = .ready ∧ ready.engine.opstate ≠ .idle) ∧
      (∃ t, exec .init { ready with
        draws := { ready.draws with
          initOk := [true]
          chipRegs := [{ addr := 1, pktlen := 2, cfg := [] }] } } = .next t) ∧
      (∀ k ∈ [0, 5], k < ready.params.configTable.length ∧
        ready.params.cfgBase.toNat + k ≠ ready.params.regAddr.toNat ∧
        ready.params.cfgBase.toNat + k ≠ ready.params.regPktlen.toNat) ∧
      { Params.tc with regAddr := 5 }.wf = true ∧ 5 < { Params.tc with regAddr := 5 }.configTable.length ∧
      { Params.tc with regAddr := 5 }.cfgBase.toNat + 5 = { Params.tc with regAddr := 5 }.regAddr.toNat :=
  ⟨by decide +kernel, by decide, by decide, ⟨_, exec_after (by decide +kernel)⟩, by decide +kernel, by decide +kernel,
    by decide +kernel, by decide +kernel⟩

/-- A frame still waiting in TX: each of its two fates; and a chip with none. -/
theorem witness_ModeOperationsStrobeAndSettle :
    ((withRadio .tx cmd20 [1]).quiet 2 ∧ pendingResolved (withRadio .tx cmd20 [1]).radio [.airTx cmd20] ∧
      pendingResolved (withRadio .tx cmd20 [1]).radio [.lost]) ∧
    (withRadio .rx cmd20 []).quiet 2 ∧ pendingResolved (withRadio .rx cmd20 []).radio [] :=
  ⟨⟨⟨_, rfl⟩, by simp [pendingResolved, withRadio, cmd20], by simp [pendingResolved, withRadio, cmd20]⟩, ⟨_, rfl⟩,
    by simp [pendingResolved, withRadio]⟩

theorem witness_WriteTxPayloadLoadsTheFrame :
    (withRadio .tx cmd20 [1]).quiet 4 ∧ pendingResolved (withRadio .tx cmd20 [1]).radio [.airTx cmd20] :=
  ⟨⟨_, rfl⟩, by simp [pendingResolved, withRadio, cmd20]⟩

theorem witness_ReadRxPayloadTakesOneFrame :
    (speeding 0 0 rAny).FrameWaiting ∧ (gated true (speeding 0 0 (List.replicate 64 7))).FrameWaiting :=
  ⟨frameWaiting_exact, frameWaiting_gated⟩

theorem witness_ReadRxPayloadFailsWithoutAFrame :
    (speeding 0 0 (rAny.take 15)).NoFrame ∧ (gated true (speeding 0 0 [])).NoFrame ∧
    ((gated false (speeding 0 0 rAny)).params.rxGate = true ∧
      (gated false (speeding 0 0 rAny)).draws.ready = false :: []) :=
  ⟨noFrame_partial _ _, noFrame_gated, rfl, rfl⟩

/-- After the first read the agent only leaves RX. -/
theorem witness_NoFrameIsReadTwice :
    ∃ s t : State, s.params.wf = true ∧ exec .readRxPayload s = .next t ∧ t.outcome = .flag true ∧
      t.draws.gaps = [RadioAct.rxOff] :: [] ∧ (∀ bytes, .airRx bytes ∉ [RadioAct.rxOff]) :=
  ⟨{ speeding 0 0 rAny with
      draws := { (speeding 0 0 rAny).draws with gaps := [[], [], [], [.rxOff]] } },
    _, by decide +kernel, exec_after (by decide +kernel), by decide +kernel, by decide +kernel, by simp⟩

theorem witness_InitializeConfiguresTheChip :
    { powered with draws := { powered.draws with initOk := [true] } }.params.wf = true := by decide +kernel

theorem witness_StrobeEffects : (withRadio .tx cmd20 [1]).quiet 1 := ⟨_, rfl⟩

/-- Each of the three kinds of register. -/
theorem witness_WriteRegWritesOneRegister :
    Memory.wf [(0x0D, (0x21 : Byte))] = true ∧ ready.quiet 1 ∧ (0x09 : Byte) = ready.params.regAddr ∧
      ((0x06 : Byte) ≠ ready.params.regAddr ∧ (0x06 : Byte) = ready.params.regPktlen) ∧
      (0x0D : Byte) ≠ ready.params.regAddr ∧ (0x0D : Byte) ≠ ready.params.regPktlen :=
  ⟨by decide, ⟨_, rfl⟩, rfl, ⟨by decide, rfl⟩, by decide, by decide⟩

/-- A burst to the FIFO, and one of five bytes from register 5, which meets the packet length at 6 and the filter at 9
and touches neither 4 nor 10. -/
theorem witness_BurstWriteFillsFifoOrRegisters :
    Memory.wf ready.radio.cfg = true ∧ ready.quiet 1 ∧ (0x3F : Byte) = ready.params.regTxfifo ∧
      (0x05 : Byte) ≠ ready.params.regTxfifo ∧
      (4 < (0x05 : Byte).toNat ∧ (0x05 : Byte).toNat + [1, 2, 3, 4, (5 : Byte)].length ≤ 10) ∧
      (0x05 : Byte).toNat + [(1 : Byte)].length ≤ ready.params.regPktlen.toNat ∧
      (0x05 : Byte).toNat + [(1 : Byte)].length ≤ ready.params.regAddr.toNat ∧
      ((0x05 : Byte).toNat + 4 = ready.params.regAddr.toNat) ∧
      ((0x05 : Byte).toNat + 1 ≠ ready.params.regAddr.toNat ∧
        (0x05 : Byte).toNat + 1 = ready.params.regPktlen.toNat) ∧
      (0x05 : Byte).toNat + 0 ≠ ready.params.regAddr.toNat ∧ (0x05 : Byte).toNat + 0 ≠ ready.params.regPktlen.toNat :=
  ⟨rfl, ⟨_, rfl⟩, rfl, by decide, by decide, by decide, by decide, by decide, by decide, by decide, by decide⟩

/-- An empty FIFO and a full one. -/
theorem witness_ReadStatusShowsTheCount :
    ∀ l ∈ [[], List.replicate 64 (7 : Byte)],
      (withRadio .idle [] l).params.wf = true ∧
        (withRadio .idle [] l).radio.rxfifo.length ≤ (withRadio .idle [] l).params.rxfifoCap ∧
        (withRadio .idle [] l).quiet 1 := by
  intro l hl
  simp only [List.mem_cons, List.not_mem_nil, or_false] at hl
  obtain rfl | rfl := hl <;> exact ⟨by decide +kernel, by decide +kernel, _, rfl⟩

theorem witness_BurstReadPopsOrFaults : (withRadio .idle [] [1, 2, 3]).quiet 1 ∧
    3 ≤ (withRadio .idle [] [1, 2, 3]).radio.rxfifo.length ∧
    (withRadio .idle [] [1, 2, 3]).radio.rxfifo.length < 4 := ⟨⟨_, rfl⟩, by decide, by decide⟩

theorem witness_PulseAndDelayAreEventsOnly : ready.quiet 1 := ⟨_, rfl⟩

theorem witness_ReceivedFramesAreClassified :
    Instr.joinOpen (fr rOpen) ∈ [Instr.joinOpen (fr rOpen), .anyResponse (fr rOpen)] ∧
    (speeding 0 0 []).engine.op = .setSpeed record 2 0 ∧
    (waiting (.pairingJoin 0x42 record) 0 0 []).engine.op = .pairingJoin 0x42 record ∧
    (acking 0 0 []).engine.op = .pairingAck 0x42 record ∧
    ((discovering 0 0 []).engine.op = .pairingDiscover 0x42 ∧
      (fr rAny)[5] ≠ (discovering 0 0 []).params.codeJoinOpen ∧
      (fr rOpen)[5] = (discovering 0 0 []).params.codeJoinOpen) ∧
    ready.engine.op = .none :=
  ⟨by simp, rfl, rfl, rfl, ⟨rfl, by decide +kernel, by decide +kernel⟩, rfl⟩

/-- A word that is one instruction, and host command bytes with a command after it. -/
theorem witness_StepRunsTheDecodedInstruction :
    ({ ready with inputs := [.word .mu [0x22]] }.inputs = .word .mu [0x22] :: [] ∧
      decode ready.params .mu [0x22] = .ok (.setModeIdle, [])) ∧
    ({ ready with inputs := [.word .hc [0x04, 0x05]] }.inputs = .word .hc [0x04, 0x05] :: [] ∧
      decode ready.params .hc [0x04, 0x05] = .ok (.process, [0x05])) :=
  ⟨⟨by decide +kernel, by decide +kernel⟩, by decide +kernel, by decide +kernel⟩

theorem witness_OnlyTheRadioMovesBetweenCommands :
    ready.inputs = [] ∧ { ready with inputs := [.air .rxOff] }.inputs = .air .rxOff :: [] := ⟨rfl, rfl⟩

/-- Each step enabled, and each not enabled. -/
theorem witness_RadioAgentSteps :
    ({ withRadio .tx cmd20 [] with inputs := [.air (.airTx true)] }.inputs = .air (.airTx true) :: [] ∧
      (withRadio .tx cmd20 []).radio.mode = .tx ∧ (withRadio .tx cmd20 []).radio.txfifo ≠ []) ∧
    ({ withRadio .rx [] [] with inputs := [.air (.airRx [1])] }.inputs = .air (.airRx [1]) :: [] ∧
      (withRadio .rx [] []).radio.mode = .rx ∧ [(1 : Byte)] ≠ []) ∧
    ({ withRadio .rx [] [] with inputs := [.air .rxOff] }.inputs = .air .rxOff :: [] ∧
      (withRadio .rx [] []).radio.mode = .rx) ∧
    ((withRadio .idle cmd20 []).radio.mode ≠ .tx ∧ (withRadio .tx [] []).radio.txfifo = [] ∧
      (withRadio .idle [] []).radio.mode ≠ .rx) :=
  ⟨⟨rfl, rfl, by decide⟩, ⟨rfl, rfl, by decide⟩, ⟨rfl, rfl⟩, by decide, rfl, by decide⟩

/-- The ends of the own id's range, the largest burst count, and the code of an open network. -/
theorem witness_DecodeEncodeRoundTrip :
    Params.tc.wf = true ∧ Params.tc.sentCodesDistinct = true ∧
      ∀ i ∈ [Instr.discovery 1, .discovery 254, .burstRead 0x3F 255, .setTimer 1 2 3 4 1, .joinOpen (fr rOpen),
        .startSetSpeed record 255 0, .csPulse [.level true, .wait 0xFFFFFFFF]], i.wellFormed Params.tc = true := by
  decide +kernel

theorem witness_HostBytesHaveOneReading : decode Params.tc .hc [0x04, 0x05] = .ok (.process, [0x05]) := by
  decide +kernel

theorem witness_ReservedHostOpcodes :
    ((0x00 : Byte).toNat = 0 ∧ 9 ≤ (0x09 : Byte).toNat) ∧ ¬((0x08 : Byte).toNat = 0 ∨ 9 ≤ (0x08 : Byte).toNat) := by
  decide

theorem witness_StepKeepsTheInvariant : ({ discovering 0 1000 rOpen with inputs := [.word .hc [0x04]] }).Inv ∧
    step { discovering 0 1000 rOpen with inputs := [.word .hc [0x04]] } =
      .next (afterStep { discovering 0 1000 rOpen with inputs := [.word .hc [0x04]] }) := by
  refine ⟨?_, step_after (by decide +kernel)⟩
  obtain ⟨h1, h2, h3, h4, h5, h6, h7, h8, h9, h10, h11, h12⟩ := witness_ProcessNeverFaults
  exact ⟨h1, h2, h3, h4, h5, h6, h7, h8, h9, h10, h11, h12⟩

theorem witness_FaultedLinkIsNeverLeft : { faulted with inputs := [.word .hc [0x01]] }.engine.link = .fault ∧
    step { faulted with inputs := [.word .hc [0x01]] } = .next (afterStep { faulted with inputs := [.word .hc [0x01]] }) :=
  ⟨rfl, step_after (by decide +kernel)⟩

theorem witness_MarkParamsAndHistoryPersist :
    { ready with inputs := [.word .hc [0x04]], refusedMark := true }.refusedMark = true ∧
    step { ready with inputs := [.word .hc [0x04]], refusedMark := true, draws := (speeding 0 0 []).draws } =
      .next (afterStep { ready with inputs := [.word .hc [0x04]], refusedMark := true, draws := (speeding 0 0 []).draws }) :=
  ⟨rfl, step_after (by decide +kernel)⟩

/-- A command that moves the phase on: the premises of the statements about one host command. -/
theorem witness_PhasesMoveInOrder : Instr.process.isHostCommand = true ∧
    exec .process (discovering 0 0 rOpen) = .next (after .process (discovering 0 0 rOpen)) :=
  ⟨rfl, exec_after (by decide +kernel)⟩

theorem witness_TxBufIsWrittenOnlyWhenAFrameIsBuilt : Instr.process.isHostCommand = true ∧
    exec .process (waiting (.pairingJoin 0x42 record) 0 0 rAny) =
      .next (after .process (waiting (.pairingJoin 0x42 record) 0 0 rAny)) := ⟨rfl, exec_after (by decide +kernel)⟩

/-- A full FIFO when the command starts. -/
theorem witness_HostCommandsKeepTheTxFifoInItsSize :
    (Instr.startSetSpeed record 2 0).isHostCommand = true ∧
      (withRadio .idle (List.replicate 64 7) []).params.wf = true ∧
      (withRadio .idle (List.replicate 64 7) []).radio.txfifo.length ≤
        (withRadio .idle (List.replicate 64 7) []).params.txfifoCap ∧
      exec (.startSetSpeed record 2 0) (withRadio .idle (List.replicate 64 7) []) =
        .next (after (.startSetSpeed record 2 0) (withRadio .idle (List.replicate 64 7) [])) :=
  ⟨rfl, by decide +kernel, by decide +kernel, exec_after (by decide +kernel)⟩

theorem witness_OnlyInitConfigures : Instr.resetOperationState.isHostCommand = true ∧
    Instr.resetOperationState ≠ .init ∧
    exec .resetOperationState (speeding 0 0 rAny) = .next (after .resetOperationState (speeding 0 0 rAny)) :=
  ⟨rfl, by decide, exec_after (by decide +kernel)⟩

/-- The last poll of a budget; the same behind a shut gate; a command refused, a start that is busy, and one that is
accepted although the refused mark is set. -/
theorem witness_WorkPerHostCommand :
    (Instr.process.isHostCommand = true ∧
      exec .process (counted 2 3 (speeding 0 1000 [])) = .next (after .process (counted 2 3 (speeding 0 1000 [])))) ∧
    exec .process (gated false (counted 2 3 (speeding 0 1000 []))) =
      .next (after .process (gated false (counted 2 3 (speeding 0 1000 [])))) ∧
    (after .startPairing powered).outcome = .refused .linkNotReady ∧
    (after .startPairing (speeding 0 0 [])).outcome = .busy ∧
    (∀ r, (after .startPairing { ready with refusedMark := true }).outcome ≠ .refused r) ∧
    (after .startPairing { ready with refusedMark := true }).outcome ≠ .busy := by
  have accepted : (after .startPairing { ready with refusedMark := true }).outcome = .ok [] := by decide +kernel
  refine ⟨⟨rfl, exec_after ?_⟩, exec_after ?_, ?_, ?_, fun r => by simp [accepted], by simp [accepted]⟩ <;>
    decide +kernel

/-- The last of three attempts times out. -/
theorem witness_ExhaustionUsesTheWholeBudget :
    (counted 2 3 (discovering 0 1000 [])).Inv ∧
    exec .process (counted 2 3 (discovering 0 1000 [])) =
      .next (after .process (counted 2 3 (discovering 0 1000 []))) ∧
    causeTrace (after .process (counted 2 3 (discovering 0 1000 []))).history =
      causeTrace (counted 2 3 (discovering 0 1000 [])).history ++ [.retriesExhausted] := by
  refine ⟨?_, exec_after (by decide +kernel), by decide +kernel⟩
  obtain ⟨h1, h2, h3, -, -, -, h7, h8, h9, h10, -, h12⟩ := witness_ProcessNeverFaults
  exact ⟨h1, h2, h3, fun _ => by decide, fun _ => by decide, by decide, h7, h8, h9, fun _ _ h => (nomatch h),
    by decide +kernel, h12⟩

/-- A mismatch, the last timeout of a budget and one before it, and a setup fault: one cause each. -/
theorem witness_AtMostOneCausePerCommand : Instr.process.isHostCommand = true ∧
    (exec .process (discovering 0 0 rAny) = .next (after .process (discovering 0 0 rAny)) ∧
      causeTrace (after .process (discovering 0 0 rAny)).history = [.protocolMismatch]) ∧
    causeTrace (after .process (counted 2 3 (speeding 0 1000 []))).history = [.retriesExhausted] ∧
    causeTrace (after .process (counted 1 3 (speeding 0 1000 []))).history = [.noResponse] ∧
    causeTrace (after .init { powered with draws := { powered.draws with initOk := [false] } }).history =
      [.setupFault] := by
  refine ⟨rfl, ⟨exec_after ?_, ?_⟩, ?_, ?_, ?_⟩ <;> decide +kernel

/-- The bytes the radio has received when the next poll comes. -/
def answered (l : List Byte) (s : State) : State := { s with radio := { s.radio with rxfifo := l } }

/-- The first state of the pairing: draws for all of it. -/
def pairing0 : State :=
  { ready with
    draws := { ready.draws with
      gaps := List.replicate 60 []
      clock := [1, 2, 3, 4, 5, 6]
      ownId := [0x41]
      status := [16, 16, 16]
      txSent := [true, true, true] } }

def pairing2 : State := after .process (after .startPairing pairing0)
def pairing5 : State := after .process (after .process (answered rOpen pairing2))
def pairing8 : State := after .process (after .process (answered rAny pairing5))

/-- Program P1's shape: discovery, join and ack, each answered. -/
theorem witness_PairingYieldsTheFansRecord :
    (pairing0.engine.link = .ready ∧ pairing0.engine.opstate = .idle) ∧
    exec .startPairing pairing0 = .next (after .startPairing pairing0) ∧
    exec .process (after .startPairing pairing0) = .next pairing2 ∧
    ((answered rOpen pairing2).engine = pairing2.engine ∧ (answered rOpen pairing2).params = pairing2.params ∧
      (answered rOpen pairing2).FrameWaiting ∧ (answered rOpen pairing2).radio.rxfifo = (fr rOpen).toList ++ [] ∧
      (fr rOpen)[5] = (answered rOpen pairing2).params.codeJoinOpen) ∧
    exec .process (answered rOpen pairing2) = .next (after .process (answered rOpen pairing2)) ∧
    exec .process (after .process (answered rOpen pairing2)) = .next pairing5 ∧
    (answered rAny pairing5).FrameWaiting ∧
    exec .process (answered rAny pairing5) = .next (after .process (answered rAny pairing5)) ∧
    exec .process (after .process (answered rAny pairing5)) = .next pairing8 ∧
    (answered rAny pairing8).FrameWaiting ∧
    exec .process (answered rAny pairing8) = .next (after .process (answered rAny pairing8)) := by
  refine ⟨⟨rfl, rfl⟩, exec_after ?_, exec_after ?_, ⟨rfl, rfl, ⟨?_, .inl ?_, ?_, ?_⟩, ?_, ?_⟩, exec_after ?_,
    exec_after ?_, ⟨?_, .inl ?_, ?_, ?_⟩, exec_after ?_, exec_after ?_, ⟨?_, .inl ?_, ?_, ?_⟩, exec_after ?_⟩ <;>
    decide +kernel

/-- A poll with a frame, the last poll of a budget, and a state in Transmitting. -/
theorem witness_EveryWaitUsesUpAnAttempt :
    (discovering 0 1000 rOpen).Inv ∧
    exec .process (discovering 0 1000 rOpen) = .next (after .process (discovering 0 1000 rOpen)) ∧
    (counted 2 3 (discovering 0 1000 [])).Inv ∧
    exec .process (counted 2 3 (discovering 0 1000 [])) =
      .next (after .process (counted 2 3 (discovering 0 1000 []))) ∧
    (during .transmitting (.setSpeed record 2 0) 0 9 []).Inv ∧
    exec .process (during .transmitting (.setSpeed record 2 0) 0 9 []) =
      .next (after .process (during .transmitting (.setSpeed record 2 0) 0 9 [])) :=
  ⟨witness_ProcessNeverFaults, exec_after (by decide +kernel), witness_ExhaustionUsesTheWholeBudget.1,
    exec_after (by decide +kernel),
    ⟨tc_wf, ⟨fun h => (nomatch h), fun h => (nomatch h)⟩, fun _ => rfl, fun _ => by decide, fun _ => by decide,
      by decide, fun _ h => (nomatch h), fun _ _ h => (nomatch h), fun _ _ h => (nomatch h), fun _ _ h => (nomatch h),
      by decide +kernel, rfl⟩,
    exec_after (by decide +kernel)⟩

theorem witness_OperationsStartWithTheirWholeBudget :
    ready.engine.link = .ready ∧ ready.engine.opstate = .idle := ⟨rfl, rfl⟩

end Sys2Proof.Tests
end

section
/-! SUPPORT. The scope (00_scope.md section 4): what one step takes from the inputs, and what it leaves alone when no
word comes to the block. -/

namespace Sys2Proof.Machine

/-! ### One step, by the head of the inputs (R9, R10) -/

/-- With no input the radio agent alone may step. -/
theorem step_of_noInput {s : State} (h : s.inputs = []) : step s = .next (radioGap s) := by
  simp [step, h, idleStep]

theorem step_of_air {s : State} {a : RadioAct} {rest : List Input} (h : s.inputs = .air a :: rest) :
    step s = .next (radioStep a { s with inputs := rest }) := by
  simp [step, h]

theorem step_of_word {s : State} {fmt : Format} {bs left : List Byte} {rest : List Input} {i : Instr}
    (h : s.inputs = .word fmt bs :: rest) (hd : decode s.params fmt bs = .ok (i, left)) :
    step s = exec i (consume fmt left rest s) := by
  simp [step, h, hd]

/-! ### What the decoder answers -/

/-- The decoder answers what was read from the bytes, and only where the operand check passes (R70). -/
theorem decode_eq_ok_iff {p : Params} {fmt : Format} {bs left : List Byte} {i : Instr} :
    decode p fmt bs = .ok (i, left) ↔ decodeRaw p fmt bs = .ok (i, left) ∧ i.wellFormed p = true := by
  unfold decode
  cases decodeRaw p fmt bs with
  | error e => simp
  | ok r =>
    obtain ⟨j, l⟩ := r
    by_cases hwf : j.wellFormed p = true
    · simp only [hwf, if_true, Except.ok.injEq, Prod.mk.injEq]
      exact ⟨fun ⟨hj, hl⟩ => ⟨⟨hj, hl⟩, hj ▸ hwf⟩, And.left⟩
    · simp only [hwf, Except.ok.injEq, Prod.mk.injEq]
      exact ⟨nofun, fun ⟨⟨hj, _⟩, hi⟩ => absurd (hj ▸ hi) hwf⟩

/-! ### What steps of the radio agent leave alone (R88, R141) -/

/-- The outcome of the mode draw comes with the step (R88): no scripted draw is taken. -/
@[simp] theorem radioStep_draws (a : RadioAct) (s : State) : (radioStep a s).draws = s.draws := by
  cases a <;> simp only [radioStep] <;> split <;> rfl

theorem AirFrame.sameChipRegs {s u : State} (h : AirFrame s u) : s.sameChipRegs u :=
  ⟨h.addr, h.pktlen, fun r => by rw [h.cfg]⟩

theorem AirFrame.sameContext {s u : State} (h : AirFrame s u) : s.sameContext u :=
  ⟨h.params, h.inputs, h.refusedMark⟩

/-! ### The obligations -/

/-- Settles O38: an idle step is a gap of the radio agent's steps, an `air` input is one such step, and both are within
the frame of the radio agent (`AirFrame`). -/
theorem onlyTheRadioMovesBetweenCommands : Obligations.OnlyTheRadioMovesBetweenCommands := by
  intro s a rest
  constructor
  · intro hin
    have hair := radioGap_air s
    exact ⟨_, step_of_noInput hin, hair.engine, hair.sameChipRegs, hair.sameContext, hair.outcome, hair.bus, hair.cause⟩
  · intro hin
    have hair := radioStep_air a { s with inputs := rest }
    exact ⟨_, step_of_air hin, hair.engine, hair.sameChipRegs, hair.params, hair.refusedMark, hair.inputs,
      radioStep_draws a _, hair.bus, hair.cause⟩

/-- Settles O37: the decoder answers well-formed instructions only, and what `step` runs it on is `consume`. -/
theorem stepRunsTheDecodedInstruction : Obligations.StepRunsTheDecodedInstruction := by
  intro s fmt bs left rest i hin hd
  exact ⟨(decode_eq_ok_iff.1 hd).2, step_of_word hin hd⟩

end Sys2Proof.Machine
end

section
/-! SUPPORT. The state (10_state.md): reset meets the invariant, and what every host command but `INIT` keeps of the
chip, its configuration (R34, R156) and the bound of its TX FIFO (R31, R40). -/

namespace Sys2Proof.Machine

/-- What a host command may do to the chip's configuration and TX FIFO: no register but the address filter is written,
and the TX FIFO stays within its size. Only `INIT` reaches further into the chip. -/
structure ChipKept (s u : State) : Prop where
  params : u.params = s.params
  pktlen : u.radio.pktlen = s.radio.pktlen
  cfg : u.radio.cfg = s.radio.cfg
  txfifo_le : s.params.wf = true → s.radio.txfifo.length ≤ s.params.txfifoCap →
    u.radio.txfifo.length ≤ s.params.txfifoCap

theorem ChipKept.trans {s t u : State} (h : ChipKept s t) (k : ChipKept t u) : ChipKept s u where
  params := k.params.trans h.params
  pktlen := k.pktlen.trans h.pktlen
  cfg := k.cfg.trans h.cfg
  txfifo_le := fun hwf hle => by
    have hk := k.txfifo_le
    rw [h.params] at hk
    exact hk hwf (h.txfifo_le hwf hle)

/-- The TX FIFO stays in its size where it is kept or emptied. -/
theorem ChipKept.of_txfifo {s u : State} (hparams : u.params = s.params) (hpktlen : u.radio.pktlen = s.radio.pktlen)
    (hcfg : u.radio.cfg = s.radio.cfg) (htx : u.radio.txfifo = s.radio.txfifo ∨ u.radio.txfifo = []) :
    ChipKept s u where
  params := hparams
  pktlen := hpktlen
  cfg := hcfg
  txfifo_le := fun _ hle => by obtain e | e := htx <;> simp [e, hle]

theorem ChipKept.of_radio {s u : State} (hparams : u.params = s.params) (hradio : u.radio = s.radio) : ChipKept s u :=
  .of_txfifo hparams (by rw [hradio]) (by rw [hradio]) (.inl (by rw [hradio]))

theorem ChipKept.refl (s : State) : ChipKept s s := .of_radio rfl rfl

/-- Writing engine registers leaves the chip alone. -/
theorem engine_chipKept (s : State) (e : Engine) : ChipKept s { s with engine := e } := .of_radio rfl rfl

theorem AirFrame.chipKept {s u : State} (h : AirFrame s u) : ChipKept s u :=
  .of_txfifo h.params h.pktlen h.cfg h.txfifo

/-! ### Bus transactions and driver operations -/

/-- A strobe never adds to the TX FIFO (R89). -/
theorem chipStrobe_txfifo (st : Strobe) (s : State) :
    (chipStrobe st s).radio.txfifo = s.radio.txfifo ∨ (chipStrobe st s).radio.txfifo = [] := by
  have hpending : (pendingTxResolve s).radio.txfifo = s.radio.txfifo ∨ (pendingTxResolve s).radio.txfifo = [] := by
    unfold pendingTxResolve
    split
    · exact .inr rfl
    · exact .inl rfl
  cases st with
  | idle | rx => exact hpending
  | res | ftx => exact .inr rfl
  | tx | frx => exact .inl rfl

theorem busStrobe_chipKept {st : Strobe} (h : st ≠ .res) (s : State) : ChipKept s (busStrobe st s) := by
  obtain ⟨-, hpktlen, hcfg⟩ := busStrobe_regs h s
  refine .of_txfifo (by simp) hpktlen hcfg ?_
  obtain e | e := chipStrobe_txfifo st (logBus (.strobe st) (radioGap s))
  · have hair := (radioGap_air s).txfifo
    exact hair.imp e.trans e.trans
  · exact .inr e

theorem busDelay_chipKept (us : U32) (s : State) : ChipKept s (busDelay us s) :=
  (radioGap_air s).chipKept.trans (.of_radio rfl rfl)

theorem recordCause_chipKept (c : Cause) (s : State) : ChipKept s (recordCause c s) :=
  (radioGap_air s).chipKept.trans (.of_radio rfl rfl)

theorem setModeIdle_chipKept (s : State) : ChipKept s (setModeIdle s) :=
  (busStrobe_chipKept (by decide) s).trans (busDelay_chipKept _ _)

theorem setModeReceive_chipKept (s : State) : ChipKept s (setModeReceive s) :=
  (busStrobe_chipKept (by decide) s).trans (busDelay_chipKept _ _)

theorem setModeTransmit_chipKept (s : State) : ChipKept s (setModeTransmit s) :=
  (busStrobe_chipKept (by decide) s).trans (busDelay_chipKept _ _)

theorem setAddress_chipKept (nid : U32) (s : State) : ChipKept s (setAddress nid s) := by
  obtain ⟨-, hpktlen, hcfg⟩ := setAddress_regs nid s
  refine .of_txfifo (by simp [setAddress]) hpktlen hcfg ?_
  simpa [setAddress, busWriteReg, writeRegEffect] using (radioGap_air s).txfifo

/-- The one operation that fills the TX FIFO flushes it first, so it holds exactly one frame (R86, R8). -/
theorem writeTxPayload_chipKept (f : Frame) (s : State) : ChipKept s (writeTxPayload f s) := by
  obtain ⟨-, hpktlen, hcfg⟩ := setModeIdle_regs s
  refine ⟨writeTxPayload_params f s, ?_, ?_, fun hwf _ => ?_⟩
  · rw [writeTxPayload_radio]; exact hpktlen
  · rw [writeTxPayload_radio]; exact hcfg
  · simpa [writeTxPayload_radio] using (params_wf_caps hwf).1

theorem pollFailed_chipKept (s : State) : ChipKept s (pollFailed s).2 := .of_radio rfl rfl

theorem pollFrame_chipKept (s : State) : ChipKept s (pollFrame s).2 := by
  have hread : ChipKept s (takeRxBytes s.params.regRxfifo frameSize (radioGap s)).2 :=
    (radioGap_air s).chipKept.trans (.of_txfifo rfl rfl rfl (.inl rfl))
  exact (hread.trans (engine_chipKept _ _)).trans (busStrobe_chipKept (st := .frx) (by decide) _)

theorem busReadStatus_chipKept (a : Byte) (s : State) : ChipKept s (busReadStatus a s).2 :=
  (radioGap_air s).chipKept.trans (.of_radio rfl rfl)

theorem readRxPayload_chipKept (s : State) : ChipKept s (readRxPayload s).2 := by
  obtain ⟨d, hd⟩ := rxGateOpen_kept s
  have hgate : ChipKept s (rxGateOpen s).2 := hd ▸ .of_radio rfl rfl
  simp only [readRxPayload]
  split
  · have hstatus := hgate.trans (busReadStatus_chipKept (rxGateOpen s).2.params.regRxbytes (rxGateOpen s).2)
    split
    · exact hstatus.trans (pollFailed_chipKept _)
    · exact hstatus.trans (pollFrame_chipKept _)
  · exact hgate.trans (pollFailed_chipKept _)

/-! ### The engine's helpers -/

theorem resend_chipKept (s : State) : ChipKept s (resend s) :=
  ((writeTxPayload_chipKept _ s).trans (setModeTransmit_chipKept _)).trans (engine_chipKept _ _)

theorem send_chipKept (f : Frame) (s : State) : ChipKept s (send f s) :=
  (engine_chipKept s _).trans (resend_chipKept _)

theorem programAddress_chipKept (nid : U32) (s : State) : ChipKept s (programAddress nid s) :=
  (setAddress_chipKept nid s).trans (setAddress_chipKept nid _)

theorem complete_chipKept (ok idle : Bool) (s : State) : ChipKept s (complete ok idle s) := by
  cases idle with
  | false => exact .of_radio rfl rfl
  | true => exact ((engine_chipKept s _).trans (setModeIdle_chipKept _)).trans (engine_chipKept _ _)

theorem retryOrFail_chipKept (s : State) : ChipKept s (retryOrFail s) := by
  have hcount := engine_chipKept s { s.engine with attempts := s.engine.attempts + 1 }
  simp only [retryOrFail]
  split
  · exact (hcount.trans (recordCause_chipKept _ _)).trans (resend_chipKept _)
  · exact (hcount.trans (recordCause_chipKept _ _)).trans (complete_chipKept _ _ _)

theorem dispatchResponse_chipKept {s u : State} (h : dispatchResponse s = some u) : ChipKept s u := by
  obtain ⟨-, rfl⟩ | ⟨_, -, -, rfl⟩ | ⟨ownId, pr, -, -, rfl⟩ | ⟨ownId, pr, -, rfl⟩ := dispatchResponse_cases h
  · exact complete_chipKept _ _ _
  · exact (recordCause_chipKept _ _).trans (complete_chipKept _ _ _)
  · exact ((engine_chipKept s _).trans (programAddress_chipKept _ _)).trans (send_chipKept _ _)
  · exact (engine_chipKept s _).trans (send_chipKept _ _)

theorem processWaiting_chipKept {t : U32} {s u : State} (h : processWaiting t s = some u) : ChipKept s u := by
  have hpoll := readRxPayload_chipKept s
  simp only [processWaiting] at h
  split at h
  · exact hpoll.trans (dispatchResponse_chipKept h)
  · split at h <;> cases h
    · exact hpoll.trans (retryOrFail_chipKept _)
    · exact hpoll

/-! ### Host commands -/

theorem ChipKept.finish {s u t : State} {o : StepOutcome} (k : ChipKept s u) (h : finish o u = .next t) :
    ChipKept s t := by
  rw [finish_eq_next] at h
  exact h ▸ k.trans (.of_radio rfl rfl)

theorem ChipKept.refuse {s t : State} {r : RefuseReason} (h : refuse r s = .next t) : ChipKept s t := by
  rw [refuse_eq_next] at h
  exact h ▸ .of_radio rfl rfl

theorem process_chipKept {s t : State} (h : exec .process s = .next t) : ChipKept s t := by
  have hclock : ChipKept s (drawClock s).2 := .of_radio rfl rfl
  simp only [exec, execProcess] at h
  split at h
  · exact .refuse h
  · split at h
    · exact hclock.finish h
    · exact ((hclock.trans (engine_chipKept _ _)).trans (setModeReceive_chipKept _)).finish h
    · split at h
      · rename_i u hu
        exact (hclock.trans (processWaiting_chipKept hu)).finish h
      · cases h
    · exact hclock.finish h

/-- Every host command but `INIT` keeps the chip's configuration and the bound of its TX FIFO. -/
theorem hostCommand_chipKept {i : Instr} {s t : State} (hhc : i.isHostCommand = true) (hinit : i ≠ .init)
    (h : exec i s = .next t) : ChipKept s t := by
  cases i with
  | init => exact absurd rfl hinit
  | startPairing =>
    simp only [exec, execStartPairing] at h
    split at h
    · exact .refuse h
    · split at h
      · exact (ChipKept.refl s).finish h
      · have harm : ChipKept s (arm (.pairingDiscover (drawOwnId s).1) s.params.nCmd (drawOwnId s).2) :=
          .of_radio rfl rfl
        exact ((harm.trans (programAddress_chipKept _ _)).trans (send_chipKept _ _)).finish h
  | startSetSpeed pr speed timer =>
    simp only [exec, execStartSetSpeed] at h
    split at h
    · exact .refuse h
    · split at h
      · exact (ChipKept.refl s).finish h
      · exact (((engine_chipKept s _).trans (programAddress_chipKept _ _)).trans (send_chipKept _ _)).finish h
  | process => exact process_chipKept h
  | resetOperationState =>
    simp only [exec, execResetOperationState] at h
    split at h
    · exact .refuse h
    · exact ((engine_chipKept s _).trans (setModeIdle_chipKept _)).finish h
  | isOperationComplete | lastOperationSuccessful | getPairingResult | reservedHc =>
    obtain ⟨-, hradio, -⟩ := accessor_engine h (by simp)
    exact .of_radio (exec_kept h).params hradio
  | _ => cases hhc

/-- `INIT` keeps the radio's TX FIFO where it is refused, and empties it where it brings the chip up (R81, R128). -/
theorem init_txfifo {s t : State} (hwf : s.params.wf = true) (h : exec .init s = .next t) :
    t.radio.txfifo = s.radio.txfifo ∨ t.radio.txfifo = [] := by
  simp only [exec, execInit] at h
  split at h
  · rw [refuse_eq_next] at h
    exact .inl (by rw [← h])
  · split at h
    · rw [refuse_eq_next] at h
      exact .inl (by rw [← h])
    · obtain ⟨hidle, htx, -, -⟩ := configureRadio_radio hwf
      rw [finish_eq_next] at h
      refine .inr ?_
      subst h
      split
      · exact htx
      · exact (congrArg Radio.txfifo (setupFault_idle (s := (bringUp s).2) hidle).1).trans htx

/-! ### The obligations -/

/-- Settles O51: `INIT` leaves the TX FIFO as it was or empty, and every other host command keeps its bound, since a
frame is written into a flushed FIFO only. -/
theorem hostCommandsKeepTheTxFifoInItsSize : Obligations.HostCommandsKeepTheTxFifoInItsSize := by
  intro s t i hhc hwf hle h
  by_cases hinit : i = .init
  · subst hinit
    obtain e | e := init_txfifo hwf h <;> simp [e, hle]
  · exact (hostCommand_chipKept hhc hinit h).txfifo_le hwf hle

/-- Settles O52: every register write of a host command but `INIT` goes to the address filter. -/
theorem onlyInitConfigures : Obligations.OnlyInitConfigures := by
  intro s t i hhc hinit h
  have hkept := hostCommand_chipKept hhc hinit h
  exact ⟨hkept.pktlen, fun a => by rw [hkept.cfg]⟩

/-- Settles O45: no operation is live after reset, every counter is 0, the radio's FIFO and register list are empty, and
the parameters meet their constraints by their choice in `Config.params`. -/
theorem resetMeetsTheInvariant : Obligations.ResetMeetsTheInvariant where
  params_wf := config_params_wf
  idle_iff_none := iff_of_true rfl rfl
  link_ready := fun h => absurd rfl h
  budget_pos := fun h => absurd rfl h
  attempts_below := nofun
  attempts_le := le_rfl
  discover_id := nofun
  join_id := nofun
  ack_id := nofun
  ack_budget := nofun
  rxfifo_le := Nat.zero_le _
  cfg_wf := memory_wf_nil

end Sys2Proof.Machine
end

section
/-! SUPPORT. The encodings (30_encoding.md): each operand form is read back from its bytes, then each space of the
decoder reads back its rows, and the host command bytes have no second reading. -/

namespace Sys2Proof.Machine

/-! ### Operand forms (R60, R62, R64, and the model's forms of log entry 18) -/

@[simp] theorem withWord_bytesLe32 (mk : U32 → Instr) (v : U32) : withWord mk (bytesLe32 v) = .ok (mk v, []) := by
  simp [bytesLe32, withWord, le32_byteOf]

@[simp] theorem withFrame_toList (mk : Frame → Instr) (f : Frame) : withFrame mk f.toList = .ok (mk f, []) := by
  simp [withFrame, frameSize, frameOfBytes_of_toList]

@[simp] theorem prBytes_recordOf (b0 b1 b2 b3 mainType mainId ownId : Byte) :
    prBytes (recordOf b0 b1 b2 b3 mainType mainId ownId) = [b0, b1, b2, b3, mainType, mainId, ownId] := by
  simp [prBytes, recordOf]

/-- One item of a chip-select pattern is read back, whatever items follow it. -/
theorem decodePattern_encodeCsItem (c : CsItem) (bs : List Byte) :
    decodePattern (encodeCsItem c ++ bs) = (decodePattern bs).map (c :: ·) := by
  cases c with
  | level high => cases high <;> rfl
  | wait us => simp [encodeCsItem, bytesLe32, decodePattern, le32_byteOf]

theorem decodePattern_flatMap (pat : List CsItem) : decodePattern (pat.flatMap encodeCsItem) = some pat := by
  induction pat with
  | nil => rfl
  | cons c rest ih => simp [decodePattern_encodeCsItem, ih]

/-! ### Rows told apart by a number (R39, N1) -/

/-- A search finds the only element of the list that passes it. -/
theorem find?_eq_some_of_unique {α : Type} {q : α → Bool} {l : List α} {a : α} (ha : a ∈ l) (hq : q a = true)
    (huniq : ∀ b ∈ l, q b = true → b = a) : l.find? q = some a := by
  obtain ⟨b, hb⟩ := Option.isSome_iff_exists.1 (List.find?_isSome.2 ⟨a, ha, hq⟩)
  rw [hb, huniq b (List.mem_of_find?_eq_some hb) (List.find?_some hb)]

theorem mem_strobes (st : Strobe) : st ∈ [Strobe.res, .idle, .rx, .tx, .ftx, .frx] := by
  cases st <;> decide

theorem strobeNum_injective {p : Params} (hp : p.wf = true) : Function.Injective p.strobeNum := by
  simp only [Params.wf, Bool.and_eq_true, decide_eq_true_eq] at hp
  obtain ⟨⟨⟨⟨⟨-, hnodup⟩, -⟩, -⟩, -⟩, -⟩ := hp
  have hnodup : ([Strobe.res, .idle, .rx, .tx, .ftx, .frx].map p.strobeNum).Nodup := hnodup
  exact fun a b => List.inj_on_of_nodup_map hnodup (mem_strobes a) (mem_strobes b)

theorem strobeOf_strobeNum {p : Params} (hp : p.wf = true) (st : Strobe) : strobeOf p (p.strobeNum st) = some st :=
  find?_eq_some_of_unique (mem_strobes st) (by simp) fun _ _ hb => strobeNum_injective hp (of_decide_eq_true hb)

/-! ### Frames the block sends (R94–R97) -/

/-- Each candidate is built with the code of its row (R55). -/
theorem sentCandidates_codes (p : Params) (f : Frame) :
    (sentCandidates p f).map (fun c => c.2.code) =
      [p.codeJoinAckReq, p.codeJoinRequest, p.codeAck, p.codeSetSpeed, p.codeSetTimer] := rfl

/-- With distinct codes at most one candidate is built as a given frame: byte 5 tells which. -/
theorem sentCandidates_unique {p : Params} (hcodes : p.sentCodesDistinct = true) {f : Frame} {c d : Instr × Frame}
    (hc : c ∈ sentCandidates p f) (hd : d ∈ sentCandidates p f) (hcd : c.2 = d.2) : c = d := by
  have hnodup : ((sentCandidates p f).map fun c => c.2.code).Nodup := by
    rw [sentCandidates_codes]
    exact of_decide_eq_true hcodes
  exact List.inj_on_of_nodup_map hnodup hc hd (congrArg Frame.code hcd)

/-- A frame is read as the row whose candidate it is built as: no earlier row's candidate can be the same frame. -/
theorem decodeSent_toList {p : Params} (hcodes : p.sentCodesDistinct = true) {i : Instr} {f : Frame}
    (hwf : i.wellFormed p = true) (hmem : (i, f) ∈ sentCandidates p f) : decodeSent p f.toList = .ok (i, []) := by
  have hfind : (sentCandidates p f).find? (fun c => c.2 = f && c.1.wellFormed p) = some (i, f) := by
    refine find?_eq_some_of_unique hmem (by simp [hwf]) fun c hc hq => ?_
    simp only [Bool.and_eq_true, decide_eq_true_eq] at hq
    exact sentCandidates_unique hcodes hc hmem hq.1
  simp [decodeSent, frameSize, frameOfBytes_of_toList, hfind]

/-- The record is read from where the builder put its fields (R93, R95): the network id from bytes 7 to 10, the
addresses from bytes 0, 1 and 3. -/
theorem mem_sentCandidates_joinRequest (p : Params) (pr : PairingRecord) :
    (.joinRequest pr, buildJoinRequest p pr) ∈ sentCandidates p (buildJoinRequest p pr) := by
  have hread : recordOf (buildJoinRequest p pr)[7] (buildJoinRequest p pr)[8] (buildJoinRequest p pr)[9]
      (buildJoinRequest p pr)[10] (buildJoinRequest p pr)[0] (buildJoinRequest p pr)[1] (buildJoinRequest p pr)[3] =
      pr := recordOf_prBytes pr
  simp [sentCandidates, hread]

/-! ### Host commands (R61, R62, R67) -/

theorem isHcOpcode_eq_false_iff (op : Byte) : isHcOpcode op = false ↔ op.toNat = 0 ∨ 9 ≤ op.toNat := by
  simp only [isHcOpcode, Bool.and_eq_false_iff, decide_eq_false_iff_not]
  omega

theorem decodeHc_reserved {op : Byte} (hop : isHcOpcode op = false) (rest : List Byte) :
    decodeHc (op :: rest) = .ok (.reservedHc op, rest) := by
  have hne : ∀ b : Byte, isHcOpcode b = true → op ≠ b := fun b hb hob => by simp [hob, hb] at hop
  simp only [decodeHc, hne 0x01 rfl, hne 0x02 rfl, hne 0x03 rfl, hne 0x04 rfl, hne 0x05 rfl, hne 0x06 rfl,
    hne 0x07 rfl, hne 0x08 rfl, if_false]

/-- A host command is read back from its bytes, whatever bytes follow them. -/
theorem decodeHc_encode_append {p : Params} {i : Instr} (hhc : i.isHostCommand = true) (hwf : i.wellFormed p = true)
    (rest : List Byte) : decodeHc ((encode p i).2 ++ rest) = .ok (i, rest) := by
  cases i with
  | init | startPairing | process | isOperationComplete | lastOperationSuccessful | getPairingResult
  | resetOperationState => rfl
  | startSetSpeed pr speed timer => simp [encode, prBytes, bytesLe32, decodeHc, recordOf_prBytes]
  | reservedHc op => exact decodeHc_reserved (by simpa [Instr.wellFormed] using hwf) rest
  | _ => cases hhc

/-- What the host decoder took from the bytes is the encoding of the command it answers. -/
theorem eq_encode_append_of_decodeHc {bs left : List Byte} {i : Instr} (p : Params)
    (h : decodeHc bs = .ok (i, left)) :
    i.isHostCommand = true ∧ encode p i = (.hc, (encode p i).2) ∧ bs = (encode p i).2 ++ left := by
  cases bs with
  | nil => cases h
  | cons op rest =>
    by_cases hop : op = 0x03
    · subst hop
      simp only [decodeHc, BitVec.reduceEq, if_true, if_false] at h
      split at h
      · cases h
        exact ⟨rfl, rfl, by simp [encode]⟩
      · cases h
    · simp only [decodeHc, if_neg hop] at h
      split_ifs at h
      all_goals
        cases h
        subst_vars
        exact ⟨rfl, rfl, rfl⟩

/-! ### Every space -/

/-- Each row is read back by the decoder of its space, before the operand check. -/
theorem decodeRaw_encode {p : Params} {i : Instr} (hp : p.wf = true) (hwf : i.wellFormed p = true)
    (hcodes : (encode p i).1 = .frameSent → p.sentCodesDistinct = true) :
    decodeRaw p (encode p i).1 (encode p i).2 = .ok (i, []) := by
  cases i with
  | init | startPairing | startSetSpeed | process | isOperationComplete | lastOperationSuccessful | getPairingResult
  | resetOperationState | reservedHc =>
    simpa [decodeRaw, encode] using decodeHc_encode_append (p := p) rfl hwf []
  | initializeRadio | setModeIdle | setModeReceive | setModeTransmit | readRxPayload => rfl
  | setTxAddress nid => exact withWord_bytesLe32 .setTxAddress nid
  | setRxAddress nid => exact withWord_bytesLe32 .setRxAddress nid
  | writeTxPayload f => exact withFrame_toList .writeTxPayload f
  | writeReg | burstWrite | readStatus => rfl
  | strobe st => simp [encode, decodeRaw, decodeBt, strobeOf_strobeNum hp]
  | burstRead a n =>
    have hn : n < 256 := of_decide_eq_true hwf
    simp [encode, decodeRaw, decodeBt, Nat.mod_eq_of_lt hn]
  | csPulse pat => simp [encode, decodeRaw, decodeBt, decodePattern_flatMap]
  | delay us => exact withWord_bytesLe32 .delay us
  | discovery own => exact decodeSent_toList (hcodes rfl) hwf (.head _)
  | joinRequest pr => exact decodeSent_toList (hcodes rfl) hwf (mem_sentCandidates_joinRequest p pr)
  | ack mt mi own => exact decodeSent_toList (hcodes rfl) hwf (.tail _ (.tail _ (.head _)))
  | setSpeed mt mi own speed => exact decodeSent_toList (hcodes rfl) hwf (.tail _ (.tail _ (.tail _ (.head _))))
  | setTimer mt mi own speed timer =>
    exact decodeSent_toList (hcodes rfl) hwf (.tail _ (.tail _ (.tail _ (.tail _ (.head _)))))
  | joinOpen f =>
    have hcode : f.code = p.codeJoinOpen := of_decide_eq_true hwf
    simp [encode, decodeRaw, decodeDiscover, hcode]
  | anyResponse f => exact withFrame_toList .anyResponse f

/-! ### The obligations -/

/-- Settles O40: each space reads its rows back, and the operand check passes what is well formed. -/
theorem decodeEncodeRoundTrip : Obligations.DecodeEncodeRoundTrip :=
  fun _ _ hp hwf hcodes => decode_eq_ok_iff.2 ⟨decodeRaw_encode hp hwf hcodes, hwf⟩

/-- Settles O41: along the rows of the opcode, each has the bytes the encoder writes. -/
theorem hostBytesHaveOneReading : Obligations.HostBytesHaveOneReading :=
  fun p _ _ _ h => eq_encode_append_of_decodeHc p (decode_eq_ok_iff.1 h).1

/-- Settles O42: the reserved row is read where no command has the opcode, and the operand check refuses it elsewhere. -/
theorem reservedHostOpcodes : Obligations.ReservedHostOpcodes := by
  intro p op rest
  have hwf : (Instr.reservedHc op).wellFormed p = true ↔ isHcOpcode op = false := by simp [Instr.wellFormed]
  rw [decode_eq_ok_iff, hwf, isHcOpcode_eq_false_iff]
  exact ⟨And.right, fun hop => ⟨decodeHc_reserved ((isHcOpcode_eq_false_iff op).2 hop) rest, hop⟩⟩

/-- Settles O43: the six words are closed, and the decoder runs on them. -/
theorem sampleWordsDecode : Obligations.SampleWordsDecode := by
  unfold Obligations.SampleWordsDecode
  decide

/-- Settles O54: kind by kind, the framing of a transaction is its header and data between the two edges. -/
theorem wireFraming : Obligations.WireFraming := by
  intro p st a v bytes items us
  exact ⟨rfl, rfl, rfl, rfl, rfl, rfl, rfl⟩

end Sys2Proof.Machine
end

section
/-! SUPPORT. Writes to the chip's registers (40_radio_driver.md R76, R77): what each register holds after one write and
after a burst, and the bus transactions that write registers. -/

namespace Sys2Proof.Machine

/-! ### What a claim needs of the state at the end of a step -/

theorem State.sameChipRegs_of_eq {s u : State}
    (h : u.radio.addr = s.radio.addr ∧ u.radio.pktlen = s.radio.pktlen ∧ u.radio.cfg = s.radio.cfg) :
    s.sameChipRegs u := by
  obtain ⟨haddr, hpktlen, hcfg⟩ := h
  exact ⟨haddr, hpktlen, fun b => by rw [hcfg]⟩

/-! ### One register (R76) -/

theorem writeRegEffect_addr (a : Nat) (v : Byte) (s : State) :
    (writeRegEffect a v s).radio.addr = if a = s.params.regAddr.toNat then v else s.radio.addr := by
  unfold writeRegEffect
  split
  · rfl
  · split <;> rfl

theorem writeRegEffect_pktlen (a : Nat) (v : Byte) (s : State) :
    (writeRegEffect a v s).radio.pktlen =
      if a ≠ s.params.regAddr.toNat ∧ a = s.params.regPktlen.toNat then v else s.radio.pktlen := by
  unfold writeRegEffect
  split
  · next h => simp [h]
  · next h => split <;> simp_all

theorem writeRegEffect_read {s : State} (hwf : Memory.wf s.radio.cfg = true) (a b : Nat) (v : Byte) :
    Memory.read (writeRegEffect a v s).radio.cfg b =
      if a ≠ s.params.regAddr.toNat ∧ a ≠ s.params.regPktlen.toNat ∧ b = a then v
      else Memory.read s.radio.cfg b := by
  unfold writeRegEffect
  split
  · next haddr => simp [haddr]
  · next haddr =>
    split
    · next hpktlen => simp [hpktlen]
    · next hpktlen =>
      by_cases hb : b = a
      · subst hb
        simpa [haddr, hpktlen] using memory_read_write_same s.radio.cfg b v hwf
      · simpa [hb] using memory_read_write_other s.radio.cfg a b v hb

theorem writeRegEffect_fifos (a : Nat) (v : Byte) (s : State) :
    (writeRegEffect a v s).radio.mode = s.radio.mode ∧ (writeRegEffect a v s).radio.txfifo = s.radio.txfifo ∧
      (writeRegEffect a v s).radio.rxfifo = s.radio.rxfifo :=
  burstRegEffect_fifos a [v] s

/-! ### Consecutive registers (R77) -/

/-- What register `b` holds after a burst of `bytes` from register `a` on, where it held `old`. -/
def burstByte (a : Nat) (bytes : List Byte) (b : Nat) (old : Byte) : Byte :=
  if a ≤ b then bytes.getD (b - a) old else old

@[simp] theorem burstByte_nil (a b : Nat) (old : Byte) : burstByte a [] b old = old := by simp [burstByte]

theorem burstByte_cons (a b : Nat) (v old : Byte) (rest : List Byte) :
    burstByte a (v :: rest) b old = burstByte (a + 1) rest b (if a = b then v else old) := by
  unfold burstByte
  rcases lt_trichotomy a b with hlt | heq | hgt
  · have hsub : b - a = (b - (a + 1)) + 1 := by omega
    simp [hsub, hlt.le, hlt.ne, Nat.succ_le_of_lt hlt]
  · simp [heq]
  · simp [hgt.ne', Nat.not_le.2 hgt, Nat.not_le.2 (Nat.lt_succ_of_lt hgt)]

theorem burstByte_outside {a b : Nat} {bytes : List Byte} (h : b < a ∨ a + bytes.length ≤ b) (old : Byte) :
    burstByte a bytes b old = old := by
  unfold burstByte
  split
  · exact List.getD_eq_default _ _ (by omega)
  · rfl

theorem burstByte_inside {a k : Nat} {bytes : List Byte} (hk : k < bytes.length) (old : Byte) :
    burstByte a bytes (a + k) old = bytes[k] := by
  simp [burstByte, hk]

theorem burstRegEffect_addr (a : Nat) (bytes : List Byte) (s : State) :
    (burstRegEffect a bytes s).radio.addr = burstByte a bytes s.params.regAddr.toNat s.radio.addr := by
  induction bytes generalizing a s with
  | nil => simp [burstRegEffect]
  | cons v rest ih => simp [burstRegEffect, ih, burstByte_cons, writeRegEffect_addr]

theorem burstRegEffect_pktlen (a : Nat) (bytes : List Byte) (s : State) :
    (burstRegEffect a bytes s).radio.pktlen =
      if s.params.regPktlen.toNat = s.params.regAddr.toNat then s.radio.pktlen
      else burstByte a bytes s.params.regPktlen.toNat s.radio.pktlen := by
  induction bytes generalizing a s with
  | nil => simp [burstRegEffect]
  | cons v rest ih =>
    simp only [burstRegEffect, ih, burstByte_cons, writeRegEffect_pktlen, writeRegEffect_params]
    by_cases ha : a = s.params.regPktlen.toNat <;> simp +contextual [ha]

theorem burstRegEffect_read {s : State} (hwf : Memory.wf s.radio.cfg = true) (a b : Nat) (bytes : List Byte) :
    Memory.read (burstRegEffect a bytes s).radio.cfg b =
      if b = s.params.regAddr.toNat ∨ b = s.params.regPktlen.toNat then Memory.read s.radio.cfg b
      else burstByte a bytes b (Memory.read s.radio.cfg b) := by
  induction bytes generalizing a s with
  | nil => simp [burstRegEffect]
  | cons v rest ih =>
    simp only [burstRegEffect, ih ((writeRegEffect_kept a v s).cfg_wf hwf), burstByte_cons,
      writeRegEffect_read hwf, writeRegEffect_params]
    by_cases ha : a = b
    · subst ha
      split
      · next hspecial => rcases hspecial with h | h <;> simp [h]
      · next hplain =>
        obtain ⟨haddr, hpktlen⟩ := not_or.1 hplain
        simp [haddr, hpktlen]
    · simp [ha, Ne.symm ha]

/-! ### The transactions that write registers -/

theorem quiet_busWriteReg_fifos {n : Nat} {s : State} (h : s.quiet (n + 1)) (a v : Byte) :
    (busWriteReg a v s).radio.mode = s.radio.mode ∧ (busWriteReg a v s).radio.txfifo = s.radio.txfifo ∧
      (busWriteReg a v s).radio.rxfifo = s.radio.rxfifo := by
  obtain ⟨-, hradio, -⟩ := quiet_radioGap h
  have hfifos := writeRegEffect_fifos a.toNat v (logBus (.writeReg a v) (radioGap s))
  rwa [logBus_radio, hradio] at hfifos

/-- At `REG_TXFIFO` a burst appends to the TX FIFO (R77; log entry 17). -/
theorem busBurstWrite_txfifo (bytes : List Byte) (s : State) :
    (busBurstWrite s.params.regTxfifo bytes s).radio =
      { (radioGap s).radio with txfifo := (radioGap s).radio.txfifo ++ bytes } := by
  simp [busBurstWrite, burstWriteEffect]

theorem busBurstWrite_registers {a : Byte} {s : State} (h : a ≠ s.params.regTxfifo) (bytes : List Byte) :
    busBurstWrite a bytes s = burstRegEffect a.toNat bytes (logBus (.burstWrite a bytes) (radioGap s)) := by
  simp [busBurstWrite, burstWriteEffect, h]

theorem busBurstWrite_addr {a : Byte} {s : State} (h : a ≠ s.params.regTxfifo) (bytes : List Byte) :
    (busBurstWrite a bytes s).radio.addr = burstByte a.toNat bytes s.params.regAddr.toNat s.radio.addr := by
  simp [busBurstWrite_registers h, burstRegEffect_addr]

theorem busBurstWrite_pktlen {a : Byte} {s : State} (h : a ≠ s.params.regTxfifo) (bytes : List Byte) :
    (busBurstWrite a bytes s).radio.pktlen =
      if s.params.regPktlen.toNat = s.params.regAddr.toNat then s.radio.pktlen
      else burstByte a.toNat bytes s.params.regPktlen.toNat s.radio.pktlen := by
  simp [busBurstWrite_registers h, burstRegEffect_pktlen]

theorem busBurstWrite_read {a : Byte} {s : State} (h : a ≠ s.params.regTxfifo)
    (hwf : Memory.wf s.radio.cfg = true) (bytes : List Byte) (b : Nat) :
    Memory.read (busBurstWrite a bytes s).radio.cfg b =
      if b = s.params.regAddr.toNat ∨ b = s.params.regPktlen.toNat then Memory.read s.radio.cfg b
      else burstByte a.toNat bytes b (Memory.read s.radio.cfg b) := by
  rw [busBurstWrite_registers h, burstRegEffect_read (by simpa using hwf)]
  simp

theorem quiet_busBurstWrite_fifos {n : Nat} {a : Byte} {s : State} (h : s.quiet (n + 1))
    (ha : a ≠ s.params.regTxfifo) (bytes : List Byte) :
    (busBurstWrite a bytes s).radio.mode = s.radio.mode ∧ (busBurstWrite a bytes s).radio.txfifo = s.radio.txfifo ∧
      (busBurstWrite a bytes s).radio.rxfifo = s.radio.rxfifo := by
  obtain ⟨-, hradio, -⟩ := quiet_radioGap h
  have hfifos := burstRegEffect_fifos a.toNat bytes (logBus (.burstWrite a bytes) (radioGap s))
  rwa [logBus_radio, hradio, ← busBurstWrite_registers ha] at hfifos

/-! ### The obligations -/

/-- Settles O30: the four facts of one register write, with addresses compared as numbers. -/
theorem writeRegWritesOneRegister : Obligations.WriteRegWritesOneRegister := by
  intro s a v hwf
  have hread := fun b => writeRegEffect_read (s := logBus (.writeReg a v) (radioGap s)) (by simpa using hwf) a.toNat b v
  refine ⟨_, rfl, busWriteReg_engine a v s,
    ⟨busWriteReg_params a v s, busWriteReg_inputs a v s, busWriteReg_refusedMark a v s⟩, rfl,
    busWriteReg_busTrace a v s, busWriteReg_causeTrace a v s, ?_, ?_, fun b => ?_,
    fun hq => quiet_busWriteReg_fifos hq a v⟩
  · simp [busWriteReg, writeRegEffect_addr, BitVec.toNat_inj]
  · simp [busWriteReg, writeRegEffect_pktlen, BitVec.toNat_inj]
  · simpa [busWriteReg, BitVec.toNat_inj] using hread b

/-- Settles O31: at `REG_TXFIFO` the append, elsewhere the burst of registers, read off by `burstByte`. -/
theorem burstWriteFillsFifoOrRegisters : Obligations.BurstWriteFillsFifoOrRegisters := by
  intro s a bytes hwf
  refine ⟨_, rfl, busBurstWrite_engine a bytes s,
    ⟨busBurstWrite_params a bytes s, busBurstWrite_inputs a bytes s, busBurstWrite_refusedMark a bytes s⟩, rfl,
    busBurstWrite_busTrace a bytes s, busBurstWrite_causeTrace a bytes s, fun htx => ?_, fun htx => ?_⟩
  · subst htx
    have hradio := busBurstWrite_txfifo bytes s
    refine ⟨State.sameChipRegs_of_eq ?_, fun hq => ?_⟩
    · simp [hradio]
    · obtain ⟨-, hgap, -⟩ := quiet_radioGap hq
      simp [hradio, hgap]
  · refine ⟨fun hq => quiet_busBurstWrite_fifos hq htx bytes, fun b hb => ?_, fun hb => ?_, fun hb => ?_,
      fun k hk => ⟨fun hb => ?_, fun hne hb => ?_, fun haddr hpktlen => ?_⟩⟩
    · simp [busBurstWrite_read htx hwf, burstByte_outside hb]
    · simp [busBurstWrite_addr htx, burstByte_outside hb]
    · simp [busBurstWrite_pktlen htx, burstByte_outside hb]
    · simp [busBurstWrite_addr htx, ← hb, burstByte_inside hk]
    · simp [busBurstWrite_pktlen htx, ← hb, hne, burstByte_inside hk]
    · simp [busBurstWrite_read htx hwf, haddr, hpktlen, burstByte_inside hk]

end Sys2Proof.Machine
end

section
/-! SUPPORT. The bus transactions that write no register (40_radio_driver.md R75, R78–R80, R89), the steps of the radio
agent (R88), and the driver's mode, address and payload operations (R82–R86), which are made of the former. -/

namespace Sys2Proof.Machine

/-! ### Strobes (R75, R89) -/

/-- `pending_tx_resolve` records and empties as `pendingResolved` has it, and keeps the mode (R89). -/
theorem pendingTxResolve_resolved (s : State) :
    ∃ l, pendingResolved s.radio l ∧ (pendingTxResolve s).history = s.history ++ l ∧
      (pendingTxResolve s).radio = { s.radio with txfifo := if l = [] then s.radio.txfifo else [] } := by
  unfold pendingTxResolve pendingResolved
  by_cases hp : s.radio.mode = .tx ∧ s.radio.txfifo ≠ []
  · refine ⟨[if (drawTxSent s).1 then .airTx s.radio.txfifo else .lost], ?_, ?_, ?_⟩
    · rw [if_pos hp]
      split <;> simp
    · simp [hp]
    · simp [hp]
  · exact ⟨[], by rw [if_neg hp], by simp [if_neg hp], by simp [if_neg hp]⟩

/-- The strobes that neither reset the chip nor leave TX record nothing of their own (R89). -/
theorem chipStrobe_history {st : Strobe} (hidle : st ≠ .idle) (hrx : st ≠ .rx) (s : State) :
    (chipStrobe st s).history = s.history := by
  cases st with
  | idle => exact absurd rfl hidle
  | rx => exact absurd rfl hrx
  | res | tx | ftx | frx => rfl

theorem quiet_busStrobe_history {n : Nat} {s : State} (h : s.quiet (n + 1)) {st : Strobe} (hidle : st ≠ .idle)
    (hrx : st ≠ .rx) : (busStrobe st s).history = s.history ++ [.bus (.strobe st)] := by
  obtain ⟨-, -, hhist⟩ := quiet_radioGap h
  simp [busStrobe, chipStrobe_history hidle hrx, hhist]

theorem quiet_busDelay_history {n : Nat} {s : State} (h : s.quiet (n + 1)) (us : U32) :
    (busDelay us s).history = s.history ++ [.bus (.delay us)] := by
  obtain ⟨-, -, hhist⟩ := quiet_radioGap h
  simp [busDelay, hhist]

/-! ### The mode under any steps of the radio agent (R88) -/

/-- Once out of TX the radio agent cannot go back there: only a strobe does. -/
theorem radioStep_mode_ne_tx {s : State} (h : s.radio.mode ≠ .tx) (a : RadioAct) :
    (radioStep a s).radio.mode ≠ .tx := by
  cases a with
  | airTx toRx => simp [radioStep, h]
  | airRx bytes =>
    simp only [radioStep]
    split <;> simpa using h
  | rxOff =>
    simp only [radioStep]
    split
    · simp
    · exact h

theorem radioGap_mode_ne_tx {s : State} (h : s.radio.mode ≠ .tx) : (radioGap s).radio.mode ≠ .tx := by
  have hdraw : (drawGap s).2.radio.mode ≠ .tx := h
  exact List.foldlRecOn (motive := fun u : State => u.radio.mode ≠ .tx) _ _ hdraw
    fun _ hu a _ => radioStep_mode_ne_tx hu a

/-- After `set_mode_receive` the chip is in RX, or has left it by itself for IDLE (R83, R88). -/
theorem setModeReceive_mode (s : State) :
    (setModeReceive s).radio.mode = .rx ∨ (setModeReceive s).radio.mode = .idle := by
  have hne : (setModeReceive s).radio.mode ≠ .tx :=
    radioGap_mode_ne_tx (s := busStrobe .rx s) (by simp [busStrobe, chipStrobe, setChipMode])
  cases hm : (setModeReceive s).radio.mode with
  | idle => exact .inr rfl
  | rx => exact .inl rfl
  | tx => exact absurd hm hne

/-! ### The history of driver operations -/

theorem quiet_setModeTransmit_history {n : Nat} {s : State} (h : s.quiet (n + 2)) :
    (setModeTransmit s).history =
      s.history ++ [.bus (.strobe .tx), .bus (.delay s.params.settleUs)] := by
  have hstrobe := quiet_busStrobe_history (st := .tx) h (by decide) (by decide)
  have hdelay := quiet_busDelay_history (quiet_busStrobe h .tx) s.params.settleUs
  rw [hstrobe, List.append_assoc] at hdelay
  exact hdelay

theorem busBurstWrite_txfifo_history (bytes : List Byte) (s : State) :
    (busBurstWrite s.params.regTxfifo bytes s).history =
      (radioGap s).history ++ [.bus (.burstWrite s.params.regTxfifo bytes)] := by
  simp [busBurstWrite, burstWriteEffect]

/-- Once idle, `write_tx_payload` records its own two transactions only, whatever the radio agent does (R86). -/
theorem writeTxPayload_history (f : Frame) (s : State) :
    (writeTxPayload f s).history = (setModeIdle s).history ++
      [.bus (.strobe .ftx), .bus (.burstWrite s.params.regTxfifo f.toList)] := by
  obtain ⟨hradio, hhist⟩ := radioGap_idle (setModeIdle_mode s)
  have hmode : (busStrobe .ftx (setModeIdle s)).radio.mode = .idle := by simp [busStrobe, chipStrobe, hradio]
  have hflush : (busStrobe .ftx (setModeIdle s)).history = (setModeIdle s).history ++ [.bus (.strobe .ftx)] := by
    simp [busStrobe, chipStrobe, hhist]
  have hburst := busBurstWrite_txfifo_history f.toList (busStrobe .ftx (setModeIdle s))
  rw [(radioGap_idle hmode).2, hflush, busStrobe_params, setModeIdle_params, List.append_assoc] at hburst
  exact hburst

/-! ### The obligations -/

/-- Settles O39: each step of the agent under the condition it is enabled on, and under its negation. -/
theorem radioAgentSteps : Obligations.RadioAgentSteps := by
  intro s rest
  refine ⟨fun toRx hin hmode hfifo => ?_, fun bytes hin hmode hbytes => ?_, fun hin hmode => ?_, fun a hin hoff => ?_⟩
  · simp [step_of_air hin, radioStep, hmode, hfifo, logEvent]
  · simp [step_of_air hin, radioStep, hmode, hbytes, logEvent]
  · simp [step_of_air hin, radioStep, hmode]
  · rw [step_of_air hin]
    cases a with
    | airTx toRx => exact congrArg _ (if_neg fun hon => Or.elim hoff (· hon.1) hon.2)
    | airRx bytes => exact congrArg _ (if_neg fun hon => Or.elim hoff (· hon.1) hon.2)
    | rxOff => exact congrArg _ (if_neg hoff)

/-- Settles O29: in a quiet gap each strobe is its row of `chipStrobe`; `pendingTxResolve_resolved` says what the idle
and receive strobes make of a frame still waiting. -/
theorem strobeEffects : Obligations.StrobeEffects := by
  intro s st hq
  obtain ⟨-, hradio, hhist⟩ := quiet_radioGap hq
  obtain ⟨l, hl, hlhist, hlradio⟩ := pendingTxResolve_resolved (logBus (.strobe st) (radioGap s))
  rw [logBus_radio, hradio] at hl hlradio
  rw [logBus_history, hhist, List.append_assoc] at hlhist
  have hcontext : s.sameContext (busStrobe st s) :=
    ⟨busStrobe_params st s, busStrobe_inputs st s, busStrobe_refusedMark st s⟩
  cases st with
  | res =>
    exact ⟨[], _, rfl, busStrobe_engine _ s, quiet_busStrobe_history hq (by decide) (by decide), hcontext, rfl,
      rfl, rfl, rfl, rfl⟩
  | idle | rx =>
    refine ⟨l, _, rfl, busStrobe_engine _ s, hlhist, hcontext, rfl, hl, ?_, ?_⟩ <;>
      simp [busStrobe, chipStrobe, setChipMode, hlradio]
  | tx | ftx | frx =>
    refine ⟨[], _, rfl, busStrobe_engine _ s, quiet_busStrobe_history hq (by decide) (by decide), hcontext, rfl,
      rfl, ?_⟩
    simp [busStrobe, chipStrobe, setChipMode, hradio]

/-- Settles O34: both only log their event behind the gap. -/
theorem pulseAndDelayAreEventsOnly : Obligations.PulseAndDelayAreEventsOnly := by
  intro s pattern us
  have hair := radioGap_air s
  refine ⟨⟨_, rfl, hair.engine, hair.sameChipRegs, hair.sameContext, busCsPulse_busTrace pattern s,
      busCsPulse_causeTrace pattern s, rfl, fun hq => ?_⟩,
    ⟨_, rfl, hair.engine, hair.sameChipRegs, hair.sameContext, busDelay_busTrace us s, busDelay_causeTrace us s, rfl,
      fun hq => ⟨(quiet_busDelay hq us).2, quiet_busDelay_history hq us⟩⟩⟩
  obtain ⟨-, hradio, hhist⟩ := quiet_radioGap hq
  simp [busCsPulse, hradio, hhist]

/-- Settles O32: the status byte shows the count behind the gap, which in a quiet gap is the count before it. -/
theorem readStatusShowsTheCount : Obligations.ReadStatusShowsTheCount := by
  intro s a hwf hle hq
  obtain ⟨-, hradio, hhist⟩ := quiet_radioGap hq
  obtain ⟨hcount, hstatus⟩ := busReadStatus_spec hwf hle a
  rw [hradio] at hcount hstatus
  refine ⟨_, _, rfl, rfl, hcount, busReadStatus_engine a s, hstatus, ?_,
    busReadStatus_params a s, busReadStatus_inputs a s, busReadStatus_refusedMark a s⟩
  simp [busReadStatus, hhist]

/-- Settles O33: the two sides of the length check, made behind a quiet gap. -/
theorem burstReadPopsOrFaults : Obligations.BurstReadPopsOrFaults := by
  intro s a n hq
  obtain ⟨-, hradio, hhist⟩ := quiet_radioGap hq
  constructor
  · intro hn
    have hrun : busBurstRead a n s = some (takeRxBytes a n (radioGap s)) := by
      simp [busBurstRead, hradio, Nat.not_lt.2 hn]
    refine ⟨{ (takeRxBytes a n (radioGap s)).2 with outcome := .bytes (takeRxBytes a n (radioGap s)).1 }, ?_, ?_, ?_, ?_,
      ?_, ?_⟩
    · simp [exec, execBurstRead, hrun]
    · simp [takeRxBytes, hradio]
    · simp
    · simp [takeRxBytes, hradio]
    · simp [takeRxBytes, hradio, hhist]
    · exact ⟨by simp, by simp, by simp⟩
  · intro hn
    have hrun : busBurstRead a n s = none := by simp [busBurstRead, hradio, hn]
    simp [exec, execBurstRead, hrun]

/-- Settles O22: what holds whatever the agent does comes from the strobe and the delay one by one; the still agent's
exact radio is `quiet_strobe_settle` for idle and receive. -/
theorem modeOperationsStrobeAndSettle : Obligations.ModeOperationsStrobeAndSettle := by
  intro s
  refine ⟨⟨_, rfl, setModeIdle_engine s, setModeIdle_mode s, State.sameChipRegs_of_eq (setModeIdle_regs s),
      setModeIdle_rxfifo s, fun hq => quiet_strobe_settle hq (.inl ⟨rfl, rfl⟩) s.params.settleUs,
      setModeIdle_busTrace s, setModeIdle_causeTrace s,
      ⟨setModeIdle_params s, setModeIdle_inputs s, setModeIdle_refusedMark s⟩, rfl⟩,
    ⟨_, rfl, setModeReceive_engine s, State.sameChipRegs_of_eq (setModeReceive_regs s), setModeReceive_mode s,
      setModeReceive_rxfifo s, fun hq => quiet_strobe_settle hq (.inr ⟨rfl, rfl⟩) s.params.settleUs,
      setModeReceive_busTrace s, setModeReceive_causeTrace s,
      ⟨setModeReceive_params s, setModeReceive_inputs s, setModeReceive_refusedMark s⟩, rfl⟩,
    ⟨_, rfl, setModeTransmit_engine s, State.sameChipRegs_of_eq (setModeTransmit_regs s), setModeTransmit_rxfifo s,
      fun hq => ⟨(quiet_setModeTransmit (n := 0) hq).2, quiet_setModeTransmit_history (n := 0) hq⟩,
      setModeTransmit_busTrace s, setModeTransmit_causeTrace s,
      ⟨setModeTransmit_params s, setModeTransmit_inputs s, setModeTransmit_refusedMark s⟩, rfl⟩⟩

/-- Settles O23: both setters are `setAddress`, one write of the filter register. -/
theorem addressSettersShareOneFilter : Obligations.AddressSettersShareOneFilter := by
  intro s nid i hi
  have hexec : exec i s = finish .done (setAddress nid s) := by
    simp only [List.mem_cons, List.not_mem_nil, or_false] at hi
    obtain rfl | rfl := hi <;> rfl
  obtain ⟨haddr, hpktlen, hcfg⟩ := setAddress_regs nid s
  refine ⟨_, hexec, setTxAddress_engine nid s, ?_, hpktlen, fun a => by rw [← hcfg], setAddress_rxfifo nid s,
    setTxAddress_busTrace nid s, setTxAddress_causeTrace nid s,
    ⟨setTxAddress_params nid s, setTxAddress_inputs nid s, setTxAddress_refusedMark nid s⟩, rfl⟩
  calc (setAddress nid s).radio.addr.toNat = (byteOf nid 0).toNat := congrArg BitVec.toNat haddr
    _ = nid.toNat % 256 := by simp [byteOf_toNat]

/-- Settles O24: `set_mode_idle` leaves the chip where the radio agent has no step, so the flush and the burst find it
as it is. -/
theorem writeTxPayloadLoadsTheFrame : Obligations.WriteTxPayloadLoadsTheFrame := by
  intro s f
  have hradio := writeTxPayload_radio f s
  obtain ⟨haddr, hpktlen, hcfg⟩ := setModeIdle_regs s
  refine ⟨_, rfl, writeTxPayload_engine f s, ?_, ?_, State.sameChipRegs_of_eq ?_, writeTxPayload_rxfifo f s,
    fun hq => ?_, writeTxPayload_busTrace f s, writeTxPayload_causeTrace f s,
    ⟨writeTxPayload_params f s, writeTxPayload_inputs f s, writeTxPayload_refusedMark f s⟩, rfl⟩
  · simp [hradio]
  · simp [hradio]
  · simp [hradio]
  · have hsettle := quiet_strobe_settle (st := .idle) (m := .idle) (State.quiet_mono hq (by decide)) (.inl ⟨rfl, rfl⟩)
      s.params.settleUs
    obtain ⟨l, hl, hlhist, hlradio⟩ := hsettle
    refine ⟨l, hl, (writeTxPayload_history f s).trans ?_, hradio.trans ?_⟩
    · simp [setModeIdle, hlhist]
    · simp [setModeIdle, hlradio]

end Sys2Proof.Machine
end

section
/-! SUPPORT. The poll (40_radio_driver.md R87, R91, R164) and the bring-up (R81, R155): a second poll of an emptied FIFO
fails, and the bring-up leaves the configuration table in the registers. -/

namespace Sys2Proof.Machine

/-! ### The poll of an empty FIFO (R91) -/

/-- Of the radio agent's steps only `air_rx` touches the RX FIFO (R88). -/
theorem radioStep_rxfifo {a : RadioAct} (h : ∀ bytes, a ≠ .airRx bytes) (s : State) :
    (radioStep a s).radio.rxfifo = s.radio.rxfifo := by
  cases a with
  | airRx bytes => exact absurd rfl (h bytes)
  | airTx toRx => simp only [radioStep]; split <;> rfl
  | rxOff => simp only [radioStep]; split <;> rfl

theorem radioGap_rxfifo_of_no_airRx {s : State} {acts : List RadioAct} {more : List (List RadioAct)}
    (hgap : s.draws.gaps = acts :: more) (hno : ∀ bytes, .airRx bytes ∉ acts) :
    (radioGap s).radio.rxfifo = s.radio.rxfifo := by
  have hacts : (drawGap s).1 = acts := by simp [drawGap, hgap, nextDraw_cons]
  refine List.foldlRecOn (motive := fun u : State => u.radio.rxfifo = s.radio.rxfifo) (drawGap s).1 _ rfl
    fun u hu a ha => ?_
  rw [hacts] at ha
  exact (radioStep_rxfifo (fun bytes hb => hno bytes (hb ▸ ha)) u).trans hu

/-- The sample of the gate changes nothing but its own script. -/
theorem rxGateOpen_sample (s : State) : ∃ d, (rxGateOpen s).2 = { s with draws := d } ∧ d.gaps = s.draws.gaps := by
  unfold rxGateOpen
  split
  · exact ⟨(drawReady s).2.draws, rfl, rfl⟩
  · exact ⟨s.draws, rfl, rfl⟩

/-- A poll that answers true has flushed the RX FIFO (R87). -/
theorem readRxPayload_true_rxfifo {s : State} (h : (readRxPayload s).1 = true) :
    (readRxPayload s).2.radio.rxfifo = [] := by
  simp only [readRxPayload] at h ⊢
  split at h
  · next hgate =>
    split at h
    · cases h
    · next hcount => rw [if_pos hgate, if_neg hcount]; rfl
  · cases h

/-- A poll of an empty RX FIFO fails, gated or not, if no `air_rx` step comes before its status read (R87, R91). -/
theorem readRxPayload_of_empty {s : State} {acts : List RadioAct} {more : List (List RadioAct)}
    (hwf : s.params.wf = true) (hempty : s.radio.rxfifo = []) (hgap : s.draws.gaps = acts :: more)
    (hno : ∀ bytes, .airRx bytes ∉ acts) :
    (readRxPayload s).1 = false ∧ (readRxPayload s).2.radio.rxfifo = [] := by
  obtain ⟨d, hsample, hgaps⟩ := rxGateOpen_sample s
  set g : State := { s with draws := d } with hg
  have hfifo : (radioGap g).radio.rxfifo = [] :=
    (radioGap_rxfifo_of_no_airRx (s := g) (hgaps.trans hgap) hno).trans hempty
  have hle : g.radio.rxfifo.length ≤ g.params.rxfifoCap := by simp [hg, hempty]
  obtain ⟨hcount, hstatus⟩ := busReadStatus_spec (s := g) hwf hle g.params.regRxbytes
  rw [hfifo] at hcount
  have hfew : (busReadStatus g.params.regRxbytes g).2.params.rxCount (busReadStatus g.params.regRxbytes g).1
      < frameSize := by simp [hcount, frameSize]
  simp only [readRxPayload, hsample, if_pos hfew]
  split
  · exact ⟨rfl, (congrArg Radio.rxfifo hstatus).trans hfifo⟩
  · exact ⟨rfl, hempty⟩

theorem exec_readRxPayload_of_eq {s u : State} {b : Bool} (h : readRxPayload s = (b, u)) :
    exec .readRxPayload s = .next { u with outcome := .flag b } := by
  simp [exec, execReadRxPayload, h]

/-! ### The bring-up (R81, R155) -/

/-- The burst of the bring-up leaves the table in the registers it covers, and the packet length is written after it:
no other register is touched (R81, R155). -/
theorem configureRadio_table {s : State} (hwf : s.params.wf = true) {k : Nat}
    (hk : k < s.params.configTable.length) :
    (s.params.cfgBase.toNat + k = s.params.regAddr.toNat →
      (configureRadio s).radio.addr = s.params.configTable[k]) ∧
    (s.params.cfgBase.toNat + k ≠ s.params.regAddr.toNat → s.params.cfgBase.toNat + k ≠ s.params.regPktlen.toNat →
      Memory.read (configureRadio s).radio.cfg (s.params.cfgBase.toNat + k) = s.params.configTable[k]) := by
  simp only [Params.wf, Bool.and_eq_true, decide_eq_true_eq] at hwf
  obtain ⟨⟨⟨⟨-, hreg⟩, hbase⟩, -⟩, -⟩ := hwf
  set r := busStrobe .res (busCsPulse s.params.resetSequence s) with hr
  have hrp : r.params = s.params := by simp [hr]
  have hbase : s.params.cfgBase ≠ r.params.regTxfifo := by rwa [hrp]
  have hcfg : Memory.wf r.radio.cfg = true := memory_ofRegs_wf _
  set c := busBurstWrite s.params.cfgBase s.params.configTable r with hc
  have hcp : c.params = s.params := by simp [hc, hrp]
  have hccfg : Memory.wf c.radio.cfg = true := (busBurstWrite_kept _ _ r).cfg_wf hcfg
  have hrun : configureRadio s = busWriteReg s.params.regPktlen 16 c := rfl
  have hne : ¬ s.params.regPktlen.toNat = s.params.regAddr.toNat := fun e => hreg (BitVec.eq_of_toNat_eq e.symm)
  constructor
  · intro haddr
    have hburst : c.radio.addr = s.params.configTable[k] := by
      rw [hc, busBurstWrite_addr hbase, hrp, ← haddr, burstByte_inside hk]
    simp [hrun, busWriteReg, writeRegEffect_addr, hcp, hne, hburst]
  · intro haddr hpktlen
    have hburst : Memory.read c.radio.cfg (s.params.cfgBase.toNat + k) = s.params.configTable[k] := by
      simp [hc, busBurstWrite_read hbase hcfg, hrp, haddr, hpktlen, burstByte_inside hk]
    rw [hrun, busWriteReg, writeRegEffect_read (by simpa using hccfg)]
    simp [hcp, hburst]

/-- Whether it succeeds or not, an accepted `INIT` leaves the radio as the bring-up sequence did (R128). -/
theorem init_radio {s t : State} (hwf : s.params.wf = true) (hfault : s.engine.link ≠ .fault)
    (hbusy : ¬(s.engine.link = .ready ∧ s.engine.opstate ≠ .idle)) (h : exec .init s = .next t) :
    t.radio = (configureRadio s).radio := by
  obtain ⟨hidle, -⟩ := configureRadio_radio hwf
  simp only [exec, execInit, if_neg hfault, if_neg hbusy, finish_eq_next] at h
  subst h
  split
  · rfl
  · exact (setupFault_idle (s := (bringUp s).2) hidle).1

/-! ### The obligations -/

/-- Settles O21: the bring-up writes the table, and neither outcome of `INIT` touches the radio after it. -/
theorem initWritesTheConfigTable : Obligations.InitWritesTheConfigTable := by
  intro s t k hwf hfault hbusy h hk
  rw [init_radio hwf hfault hbusy h]
  exact configureRadio_table hwf hk

/-- Settles O28: the bring-up sequence, then the draw that is its answer. -/
theorem initializeConfiguresTheChip : Obligations.InitializeConfiguresTheChip := by
  intro s hwf
  obtain ⟨hengine, hparams, hinputs, hmark, -, hdraw, hbus, hcause⟩ := configureRadio_spec s
  obtain ⟨hmode, htx, hrx, hpktlen⟩ := configureRadio_radio hwf
  exact ⟨_, _, rfl, rfl, fun b rest hb => drawInitOk_cons (hdraw.trans hb), hengine, hmode, htx, hrx, hpktlen, hbus,
    hcause, hparams, hinputs, hmark⟩

/-- Settles O25: `readRxPayload_frame`, with the sixteen bytes read back from the frame in `rx_buf`. -/
theorem readRxPayloadTakesOneFrame : Obligations.ReadRxPayloadTakesOneFrame := by
  intro s hframe
  obtain ⟨htrue, hengine, hparams, hinputs, hmark, hbus, hcause, hfifo, hregs⟩ := readRxPayload_frame hframe
  have hbuf : (readRxPayload s).2.engine.rxBuf = frameOfBytes (s.radio.rxfifo.take 16) := by rw [hengine]
  refine ⟨_, rfl, congrArg StepOutcome.flag htrue, ?_, ?_, hfifo, State.sameChipRegs_of_eq hregs, hbus, hcause,
    hparams, hinputs, hmark⟩
  · exact hengine.trans (by rw [hbuf])
  · exact (congrArg Vector.toList hbuf).trans (frameOfBytes_toList hframe.enough)

/-- Settles O26: the two ways a poll finds no frame, each an exact next state but for `rx_buf`. -/
theorem readRxPayloadFailsWithoutAFrame : Obligations.ReadRxPayloadFailsWithoutAFrame := by
  intro s
  constructor
  · intro hnone
    obtain ⟨b, x, d, hcount, hrun⟩ := readRxPayload_noFrame hnone
    exact ⟨_, exec_readRxPayload_of_eq hrun, rfl, rfl, rfl, ⟨b, hcount, rfl⟩, rfl, rfl, rfl⟩
  · intro hgate hready
    obtain ⟨x, d, hrun⟩ := readRxPayload_shut ⟨hgate, hready⟩
    exact ⟨_, exec_readRxPayload_of_eq hrun, rfl, rfl, rfl, rfl, rfl, rfl, rfl⟩

/-- Settles O27: the first poll emptied the RX FIFO, and only `air_rx` fills it. -/
theorem noFrameIsReadTwice : Obligations.NoFrameIsReadTwice := by
  intro s t acts more hwf h htrue hgap hno
  simp only [exec, execReadRxPayload, finish_eq_next] at h
  have hfound : (readRxPayload s).1 = true := by
    rw [← h] at htrue
    exact StepOutcome.flag.inj htrue
  have hparams : t.params = s.params := h ▸ (readRxPayload_kept s).params
  have hempty : t.radio.rxfifo = [] := h ▸ readRxPayload_true_rxfifo hfound
  obtain ⟨hfalse, hstill⟩ := readRxPayload_of_empty (hparams ▸ hwf) hempty hgap hno
  exact ⟨_, rfl, congrArg StepOutcome.flag hfalse, hstill⟩

end Sys2Proof.Machine
end

section
/-! SUPPORT. The frame codec (41_frame_codec.md): the bytes of the frames the block sends (R93–R97), the class of a
received frame (R98, R99), where `tx_buf` is written (R101), and a pairing exchange phase by phase (R103). -/

namespace Sys2Proof.Machine

/-! ### Frames the block sends (R93–R97) -/

/-- The parameters of a discovery fill bytes 7 to 10 (R94). -/
theorem buildDiscovery_bytes (p : Params) (ownId : Byte) :
    buildDiscovery p ownId = #v[p.discAddrType, p.discAddrId, p.discTypeTag, ownId, p.ttl, p.codeJoinAckReq, 4,
      p.discPayload[0], p.discPayload[1], p.discPayload[2], p.discPayload[3], 0, 0, 0, 0, 0] := by
  have hpayload : p.discPayload.toList =
      [p.discPayload[0], p.discPayload[1], p.discPayload[2], p.discPayload[3]] := by
    refine List.ext_getElem (by simp) fun k hk _ => ?_
    have hk4 : k < 4 := by simpa using hk
    rw [Vector.getElem_toList]
    interval_cases k <;> rfl
  rw [buildDiscovery, hpayload]
  rfl

/-- Byte 3 of every frame the block sends is the originator's id (R93). -/
theorem buildFrame_originator (p : Params) (aType aId oType oId code : Byte) (params : List Byte) :
    (buildFrame p aType aId oType oId code params)[3] = oId := rfl

/-! ### Frames the block receives (R98, R99) -/

/-- The record a discovery response stands for: bytes 7–10, 2 and 3, and the own id (R98). -/
def discoveryRecord (f : Frame) (own : Byte) : PairingRecord := recordOf f[7] f[8] f[9] f[10] f[2] f[3] own

theorem prBytes_discoveryRecord (f : Frame) (own : Byte) :
    prBytes (discoveryRecord f own) = [f[7], f[8], f[9], f[10], f[2], f[3], own] :=
  prBytes_recordOf ..

/-- A discovery response with `CODE_JOIN_OPEN` matches, with its record (R98). -/
theorem classify_joinOpen {p : Params} {f : Frame} (h : f[5] = p.codeJoinOpen) (own : Byte) :
    classify p (.pairingDiscover own) f = some (.openMatch (discoveryRecord f own)) := by
  simp [classify, parseDiscoveryResponse, h, discoveryRecord, recordOf]

/-- A discovery response with another code is a mismatch (R98). -/
theorem classify_otherCode {p : Params} {f : Frame} (h : f[5] ≠ p.codeJoinOpen) (own : Byte) :
    classify p (.pairingDiscover own) f = some .mismatch := by
  simp [classify, parseDiscoveryResponse, h]

/-- Any frame is the response awaited outside PairingDiscover (R99). -/
theorem classify_accept {op : Op}
    (h : (∃ pr speed timer, op = .setSpeed pr speed timer) ∨ (∃ own pr, op = .pairingJoin own pr) ∨
      ∃ own pr, op = .pairingAck own pr) (p : Params) (f : Frame) : classify p op f = some .accept := by
  obtain ⟨_, _, _, rfl⟩ | ⟨_, _, rfl⟩ | ⟨_, _, rfl⟩ := h <;> rfl

/-- Both received rows run the classifier. -/
theorem exec_received {i : Instr} {f : Frame} (h : i ∈ [Instr.joinOpen f, Instr.anyResponse f]) (s : State) :
    exec i s = classifyFrame f s := by
  simp only [List.mem_cons, List.not_mem_nil, or_false] at h
  obtain rfl | rfl := h <;> rfl

theorem classifyFrame_of_some {s : State} {f : Frame} {c : ResponseClass}
    (h : classify s.params s.engine.op f = some c) :
    classifyFrame f s = .next { s with outcome := .classified c } := by
  simp [classifyFrame, h, finish]

/-! ### One phase of an exchange (R103) -/

/-- Where an operation stands: the link, the phase and the live operation. -/
structure Engine.InPhase (e : Engine) (phase : OpState) (op : Op) : Prop where
  link : e.link = .ready
  opstate : e.opstate = phase
  op : e.op = op

/-- An accepted `START_PAIRING` sends the discovery with the id it draws (R105, R110). -/
theorem startPairing_inPhase {s t : State} (hlink : s.engine.link = .ready) (hidle : s.engine.opstate = .idle)
    (h : exec .startPairing s = .next t) :
    ∃ own : Byte, 1 ≤ own.toNat ∧ own.toNat ≤ 254 ∧ t.engine.InPhase .transmitting (.pairingDiscover own) ∧
      t.engine.txBuf = buildDiscovery s.params own := by
  obtain ⟨hlow, hhigh⟩ := drawOwnId_range s
  simp only [exec, execStartPairing, hlink, hidle, ne_eq, not_true_eq_false, if_false, finish_eq_next] at h
  have hengine := congrArg State.engine h
  simp only [send_engine, (programAddress_spec _ _).1, arm, drawOwnId_engine] at hengine
  exact ⟨(drawOwnId s).1, hlow, hhigh, hengine ▸ ⟨hlink, rfl, rfl⟩, hengine ▸ rfl⟩

/-- The wait that follows a sent frame is for the same operation (R114). -/
theorem process_transmitting_inPhase {s t : State} {op : Op} (hs : s.engine.InPhase .transmitting op)
    (h : exec .process s = .next t) : t.engine.InPhase .waitingResponse op := by
  simp only [exec, execProcess, hs.link, hs.opstate, ne_eq, not_true_eq_false, if_false, finish_eq_next] at h
  have hengine := congrArg State.engine h
  simp only [processTransmitting, setModeReceive_engine, drawClock_engine] at hengine
  exact hengine ▸ ⟨hs.link, rfl, hs.op⟩

/-- The clock sample leaves a waiting frame where it is. -/
theorem State.FrameWaiting.drawClock {s : State} (h : s.FrameWaiting) : (drawClock s).2.FrameWaiting :=
  ⟨h.params_wf, h.gate, h.enough, h.within⟩

/-- With a frame waiting, `PROCESS` in WaitingResponse dispatches that frame (R115): the state `r` it is dispatched in
has it in `rx_buf`. -/
theorem process_frameWaiting {s t : State} {op : Op} (hs : s.engine.InPhase .waitingResponse op)
    (hframe : s.FrameWaiting) (h : exec .process s = .next t) :
    ∃ r u : State, r.engine = { s.engine with rxBuf := frameOfBytes (s.radio.rxfifo.take 16) } ∧
      r.params = s.params ∧ dispatchResponse r = some u ∧ t.engine = u.engine := by
  obtain ⟨hfound, hengine, hparams, -⟩ := readRxPayload_frame hframe.drawClock
  simp only [exec, execProcess, processWaiting, hs.link, hs.opstate, hfound, ne_eq, not_true_eq_false, if_false,
    if_true] at h
  split at h
  · rename_i u hu
    rw [finish_eq_next] at h
    exact ⟨_, u, hengine, hparams, hu, h ▸ rfl⟩
  · cases h

/-- A waiting discovery response with `CODE_JOIN_OPEN` starts the join phase for its record (R98, R121). -/
theorem process_joinOpen_inPhase {s t : State} {own : Byte} {f : Frame} {more : List Byte}
    (hs : s.engine.InPhase .waitingResponse (.pairingDiscover own)) (hframe : s.FrameWaiting)
    (hfifo : s.radio.rxfifo = f.toList ++ more) (hcode : f[5] = s.params.codeJoinOpen)
    (h : exec .process s = .next t) :
    t.engine.InPhase .transmitting (.pairingJoin own (discoveryRecord f own)) ∧
      t.engine.txBuf = buildJoinRequest s.params (discoveryRecord f own) := by
  have hread : frameOfBytes (s.radio.rxfifo.take 16) = f := by
    rw [hfifo, List.take_left' (by simp), frameOfBytes_of_toList]
  obtain ⟨r, u, hr, hparams, hu, ht⟩ := process_frameWaiting hs hframe h
  rw [hread] at hr
  simp only [dispatchResponse, hr, hs.op, hparams, classify_joinOpen hcode, Option.some.injEq] at hu
  obtain ⟨v, hv, hvengine, -⟩ := enterJoin_eq own (discoveryRecord f own) r
  rw [ht, ← hu, hv, (resend_spec v).1, hvengine, hr, hparams]
  exact ⟨⟨hs.link, rfl, rfl⟩, rfl⟩

/-- Any waiting frame answers the join request and starts the ack phase (R99, R122). -/
theorem process_joinResponse_inPhase {s t : State} {own : Byte} {pr : PairingRecord}
    (hs : s.engine.InPhase .waitingResponse (.pairingJoin own pr)) (hframe : s.FrameWaiting)
    (h : exec .process s = .next t) :
    t.engine.InPhase .transmitting (.pairingAck own pr) ∧
      t.engine.txBuf = buildAck s.params pr.mainType pr.mainId pr.ownId := by
  obtain ⟨r, u, hr, hparams, hu, ht⟩ := process_frameWaiting hs hframe h
  simp only [dispatchResponse, hr, hs.op, classify, Option.some.injEq] at hu
  rw [ht, ← hu, enterAck_eq, (resend_spec _).1, hr, hparams]
  exact ⟨⟨hs.link, rfl, rfl⟩, rfl⟩

/-- Any waiting frame answers the acknowledgment and ends the pairing with success (R99, R123). -/
theorem process_ackResponse_inPhase {s t : State} {own : Byte} {pr : PairingRecord}
    (hs : s.engine.InPhase .waitingResponse (.pairingAck own pr)) (hframe : s.FrameWaiting)
    (h : exec .process s = .next t) :
    t.engine.InPhase .operationComplete (.pairingAck own pr) ∧ t.engine.success = true := by
  obtain ⟨r, u, hr, -, hu, ht⟩ := process_frameWaiting hs hframe h
  simp only [dispatchResponse, hr, hs.op, classify, Option.some.injEq] at hu
  rw [ht, ← hu, (complete_spec _ _ _).1, hr]
  exact ⟨⟨hs.link, rfl, hs.op⟩, rfl⟩

/-- The record of a pairing that ended with success is the result (R63, R126). -/
theorem getPairingResult_of_success {s : State} {own : Byte} {pr : PairingRecord}
    (hs : s.engine.InPhase .operationComplete (.pairingAck own pr)) (hsuccess : s.engine.success = true) :
    exec .getPairingResult s = .next { s with outcome := .ok (1 :: prBytes pr) } := by
  simp [exec, execGetPairingResult, pairingResult, isComplete, hs.link, hs.opstate, hs.op, hsuccess, resultBytes,
    finish]

/-! ### Where `tx_buf` is written (R101) -/

/-- `PROCESS` keeps `tx_buf` but where it answers a discovery or join response with the frame of the next phase. -/
theorem process_txBuf {s t : State} (h : exec .process s = .next t) :
    t.engine.txBuf = s.engine.txBuf ∨ (s.engine.opstate = .waitingResponse ∧
      ((∃ own, s.engine.op = .pairingDiscover own) ∨ ∃ own pr, s.engine.op = .pairingJoin own pr) ∧
      t.engine.op ≠ s.engine.op) := by
  obtain ⟨x, same | ⟨-, ⟨-, now, waits⟩ | ⟨hwait, hcases⟩⟩⟩ := process_engine h
  · exact .inl (by rw [same])
  · exact .inl (by rw [waits])
  obtain noFrame | ⟨-, resent⟩ | ⟨-, exhausted⟩ | ⟨-, ok, done⟩ | ⟨own, pr, hop, -, joins⟩ | ⟨own, pr, hop, acks⟩ :=
    hcases
  · exact .inl (by rw [noFrame])
  · exact .inl (by rw [resent])
  · exact .inl (by rw [exhausted])
  · exact .inl (by rw [done])
  · exact .inr ⟨hwait, .inl ⟨own, hop⟩, by rw [joins, hop]; exact nofun⟩
  · exact .inr ⟨hwait, .inr ⟨own, pr, hop⟩, by rw [acks, hop]; exact nofun⟩

/-! ### The obligations -/

/-- Settles O57: the two `PROCESS` calls of each phase in turn (R103, R104). The record made from the discovery response
is carried as a payload of `op` to the ack phase, and each frame is built with the own id of that record. -/
theorem pairingYieldsTheFansRecord : Obligations.PairingYieldsTheFansRecord := by
  intro s0 s1 s2 s3 s4 s5 s6 s7 s8 s9 s10 f more hlink hidle h01 h12 h23 _ hframe3 hfifo hcode h34 h45 h56 _ hframe6
    h67 h78 h89 _ hframe9 h9
  obtain ⟨own, hlow, hhigh, hdiscover, htx1⟩ := startPairing_inPhase hlink hidle h01
  have hwait3 := process_transmitting_inPhase hdiscover h12
  rw [← h23] at hwait3
  obtain ⟨hjoin, htx4⟩ := process_joinOpen_inPhase hwait3 hframe3 hfifo hcode h34
  have hwait6 := process_transmitting_inPhase hjoin h45
  rw [← h56] at hwait6
  obtain ⟨hack, htx7⟩ := process_joinResponse_inPhase hwait6 hframe6 h67
  have hwait9 := process_transmitting_inPhase hack h78
  rw [← h89] at hwait9
  obtain ⟨hdone, hsuccess⟩ := process_ackResponse_inPhase hwait9 hframe9 h9
  refine ⟨own, hlow, hhigh, hdiscover.op, ?_, ?_, ?_, hdone.opstate, hsuccess, ?_⟩
  · rw [htx1]; exact buildFrame_originator ..
  · rw [htx4]; exact buildFrame_originator ..
  · rw [htx7]; exact buildFrame_originator ..
  · rw [getPairingResult_of_success hdone hsuccess, prBytes_discoveryRecord]

/-- Settles O36: `classify`, case by case of the live operation. -/
theorem receivedFramesAreClassified : Obligations.ReceivedFramesAreClassified := by
  intro s f i hi
  rw [exec_received hi s]
  refine ⟨fun hop => classifyFrame_of_some (classify_accept hop s.params f), fun own hop => ⟨fun hcode => ?_,
    fun hcode => ⟨discoveryRecord f own, le32_toNat _ _ _ _, rfl, rfl, rfl, ?_⟩⟩, fun hop => ?_⟩
  · exact classifyFrame_of_some (hop ▸ classify_otherCode hcode own)
  · exact classifyFrame_of_some (hop ▸ classify_joinOpen hcode own)
  · simp [classifyFrame, hop, classify]

/-- Settles O50: the inversion of each host command says what it does to the engine, and only `send` of a newly built
frame writes `tx_buf`; at the two phase changes `op` takes another constructor. -/
theorem txBufIsWrittenOnlyWhenAFrameIsBuilt : Obligations.TxBufIsWrittenOnlyWhenAFrameIsBuilt := by
  intro s t i hhc h
  cases i with
  | init =>
    obtain e | ⟨-, -, e | e⟩ := init_engine h <;> exact .inl (by rw [e])
  | startPairing =>
    obtain e | ⟨hlink, hidle, -⟩ := startPairing_engine h
    · exact .inl (by rw [e])
    · exact .inr (.inl ⟨hlink, hidle, .inl rfl⟩)
  | startSetSpeed pr speed timer =>
    obtain e | ⟨hlink, hidle, -⟩ := startSetSpeed_engine h
    · exact .inl (by rw [e])
    · exact .inr (.inl ⟨hlink, hidle, .inr ⟨pr, speed, timer, rfl⟩⟩)
  | process =>
    obtain e | ⟨hwait, hop, hne⟩ := process_txBuf h
    · exact .inl e
    · exact .inr (.inr ⟨rfl, hwait, hop, hne⟩)
  | isOperationComplete => exact .inl (by rw [(accessor_engine h (.inl rfl)).1])
  | lastOperationSuccessful => exact .inl (by rw [(accessor_engine h (.inr (.inl rfl))).1])
  | getPairingResult => exact .inl (by rw [(accessor_engine h (.inr (.inr (.inl rfl)))).1])
  | resetOperationState =>
    obtain e | ⟨-, e⟩ := resetOperationState_engine h <;> exact .inl (by rw [e])
  | reservedHc op => exact .inl (by rw [(accessor_engine h (.inr (.inr (.inr ⟨op, rfl⟩)))).1])
  | _ => cases hhc

/-- Settles O35: each builder by its bytes, the network id by its little-endian bytes (R43, R60). -/
theorem sentFramesByteForByte : Obligations.SentFramesByteForByte := by
  intro s pr mt mi own speed timer
  refine ⟨?_, ⟨byteOf pr.networkId 0, byteOf pr.networkId 1, byteOf pr.networkId 2, byteOf pr.networkId 3, ?_, rfl⟩,
    rfl, rfl, rfl⟩
  · simp only [exec, execDiscovery, finish, buildDiscovery_bytes]
  · rw [← le32_toNat, le32_byteOf]

end Sys2Proof.Machine
end

section
/-! SUPPORT. The protocol engine (42_protocol_engine.md): `PROCESS` by opstate (R112–R116), the invariant of the engine
registers (R29, R130) through every step, and the order of the phases. -/

namespace Sys2Proof.Machine

/-! ### The helpers of the engine, field by field (R107–R109) -/

@[simp] theorem resend_engine (s : State) : (resend s).engine = { s.engine with opstate := .transmitting } :=
  (resend_spec s).1
@[simp] theorem resend_params (s : State) : (resend s).params = s.params := (resend_kept s).params
@[simp] theorem resend_inputs (s : State) : (resend s).inputs = s.inputs := by simp [resend]
@[simp] theorem resend_refusedMark (s : State) : (resend s).refusedMark = s.refusedMark := by simp [resend]
@[simp] theorem resend_busTrace (s : State) :
    busTrace (resend s).history = busTrace s.history ++ sendEvents s.params s.engine.txBuf := by
  simp [resend, sendEvents]
@[simp] theorem resend_causeTrace (s : State) : causeTrace (resend s).history = causeTrace s.history := by
  simp [resend]
@[simp] theorem resend_regs (s : State) :
    (resend s).radio.addr = s.radio.addr ∧ (resend s).radio.pktlen = s.radio.pktlen ∧
      (resend s).radio.cfg = s.radio.cfg := by
  simp [resend, writeTxPayload_radio]

@[simp] theorem programAddress_engine (nid : U32) (s : State) : (programAddress nid s).engine = s.engine :=
  (programAddress_spec nid s).1
@[simp] theorem programAddress_params (nid : U32) (s : State) : (programAddress nid s).params = s.params :=
  (programAddress_kept nid s).params
@[simp] theorem programAddress_inputs (nid : U32) (s : State) : (programAddress nid s).inputs = s.inputs := by
  simp [programAddress]
@[simp] theorem programAddress_refusedMark (nid : U32) (s : State) :
    (programAddress nid s).refusedMark = s.refusedMark := by simp [programAddress]
@[simp] theorem programAddress_busTrace (nid : U32) (s : State) :
    busTrace (programAddress nid s).history = busTrace s.history ++ addressEvents s.params nid := by
  simp [programAddress, addressEvents, lowByte, byteOf]
@[simp] theorem programAddress_causeTrace (nid : U32) (s : State) :
    causeTrace (programAddress nid s).history = causeTrace s.history := by simp [programAddress]
@[simp] theorem programAddress_regs (nid : U32) (s : State) :
    (programAddress nid s).radio.addr = lowByte nid ∧ (programAddress nid s).radio.pktlen = s.radio.pktlen ∧
      (programAddress nid s).radio.cfg = s.radio.cfg := by
  simp [programAddress, setTxAddress, setRxAddress]

@[simp] theorem complete_engine (ok idle : Bool) (s : State) :
    (complete ok idle s).engine = { s.engine with success := ok, opstate := .operationComplete } :=
  (complete_spec ok idle s).1
@[simp] theorem complete_params (ok idle : Bool) (s : State) : (complete ok idle s).params = s.params :=
  (complete_kept ok idle s).params
@[simp] theorem complete_inputs (ok idle : Bool) (s : State) : (complete ok idle s).inputs = s.inputs := by
  cases idle <;> simp [complete]
@[simp] theorem complete_refusedMark (ok idle : Bool) (s : State) :
    (complete ok idle s).refusedMark = s.refusedMark := by cases idle <;> simp [complete]
@[simp] theorem complete_busTrace (ok idle : Bool) (s : State) :
    busTrace (complete ok idle s).history =
      busTrace s.history ++ (if idle then [.strobe .idle, .delay s.params.settleUs] else []) := by
  cases idle <;> simp [complete]
@[simp] theorem complete_causeTrace (ok idle : Bool) (s : State) :
    causeTrace (complete ok idle s).history = causeTrace s.history := by cases idle <;> simp [complete]
@[simp] theorem complete_regs (ok idle : Bool) (s : State) :
    (complete ok idle s).radio.addr = s.radio.addr ∧ (complete ok idle s).radio.pktlen = s.radio.pktlen ∧
      (complete ok idle s).radio.cfg = s.radio.cfg := by cases idle <;> simp [complete]

/-- Where it is asked to, `complete` leaves the radio idle, whatever the radio agent does (R82, R109). -/
theorem complete_idle_mode (ok : Bool) (s : State) : (complete ok true s).radio.mode = .idle :=
  setModeIdle_mode _

/-! ### PROCESS, by opstate (R112) -/

/-- Outside an attempt `PROCESS` takes its clock sample and does nothing else (R113, R116). -/
theorem exec_process_resting {s : State} (hlink : s.engine.link = .ready)
    (hrest : s.engine.opstate = .idle ∨ s.engine.opstate = .operationComplete) :
    exec .process s = .next { (drawClock s).2 with outcome := .ok [] } := by
  obtain hst | hst := hrest <;> simp [exec, execProcess, hlink, hst, finish]

theorem exec_process_transmitting {s : State} (hlink : s.engine.link = .ready)
    (htrans : s.engine.opstate = .transmitting) :
    exec .process s = .next { processTransmitting (drawClock s).1 (drawClock s).2 with outcome := .ok [] } := by
  simp [exec, execProcess, hlink, htrans, finish]

/-- In WaitingResponse `PROCESS` answers what the poll comes to (R115). -/
theorem exec_process_waiting_iff {s t : State} (hlink : s.engine.link = .ready)
    (hwait : s.engine.opstate = .waitingResponse) :
    exec .process s = .next t ↔
      ∃ u, processWaiting (drawClock s).1 (drawClock s).2 = some u ∧ { u with outcome := .ok [] } = t := by
  simp only [exec, execProcess, hlink, hwait, ne_eq, not_true_eq_false, if_false]
  cases processWaiting (drawClock s).1 (drawClock s).2 <;> simp

theorem exec_process_notReady {s : State} (hlink : s.engine.link ≠ .ready) :
    exec .process s = .next { s with refusedMark := true, outcome := .refused .linkNotReady } := by
  simp [exec, execProcess, hlink, refuse]

/-! ### The poll in WaitingResponse (R115, R117) -/

theorem processWaiting_of_frame {s r : State} (h : readRxPayload s = (true, r)) (now : U32) :
    processWaiting now s = dispatchResponse r := by
  simp [processWaiting, h]

theorem processWaiting_of_early {s r : State} {now : U32} (h : readRxPayload s = (false, r))
    (hearly : timedOut r.engine now = false) : processWaiting now s = some r := by
  simp [processWaiting, h, hearly]

theorem processWaiting_of_timeout {s r : State} {now : U32} (h : readRxPayload s = (false, r))
    (hlate : timedOut r.engine now = true) : processWaiting now s = some (retryOrFail r) := by
  simp [processWaiting, h, hlate]

theorem retryOrFail_of_budgetLeft {s : State} (h : (s.engine.attempts + 1).toNat < s.engine.maxRetries.toNat) :
    retryOrFail s = resend (recordCause .noResponse
      { s with engine := { s.engine with attempts := s.engine.attempts + 1 } }) := by
  simp only [retryOrFail, retryLeft, h, decide_true, if_true]

theorem retryOrFail_of_exhausted {s : State} (h : s.engine.maxRetries.toNat ≤ (s.engine.attempts + 1).toNat) :
    retryOrFail s = complete false true (recordCause .retriesExhausted
      { s with engine := { s.engine with attempts := s.engine.attempts + 1 } }) := by
  simp only [retryOrFail, retryLeft, Nat.not_lt.2 h, decide_false, Bool.false_eq_true, if_false]

/-! ### The invariant of the engine registers (R29, R130) -/

/-- What the payload of an operation promises: an own id in range that is the record's (R18, R103), and the one-shot
budget of the ack phase (R122). -/
def Op.PayloadOk (budget : Byte) : Op → Prop
  | .none | .setSpeed _ _ _ => True
  | .pairingDiscover own => 1 ≤ own.toNat ∧ own.toNat ≤ 254
  | .pairingJoin own pr => pr.ownId = own ∧ 1 ≤ own.toNat ∧ own.toNat ≤ 254
  | .pairingAck own pr => (pr.ownId = own ∧ 1 ≤ own.toNat ∧ own.toNat ≤ 254) ∧ budget = 1

/-- The engine's part of `State.Inv`. -/
structure Engine.Inv (e : Engine) : Prop where
  idle_iff_none : e.opstate = .idle ↔ e.op = .none
  link_ready : e.op ≠ .none → e.link = .ready
  budget_pos : e.op ≠ .none → 1 ≤ e.maxRetries.toNat
  attempts_below : e.opstate = .transmitting ∨ e.opstate = .waitingResponse → e.attempts.toNat < e.maxRetries.toNat
  attempts_le : e.attempts.toNat ≤ e.maxRetries.toNat
  payload : e.op.PayloadOk e.maxRetries

theorem Engine.Inv.payload_of {e : Engine} {op : Op} (h : e.Inv) (hop : e.op = op) : op.PayloadOk e.maxRetries :=
  hop ▸ h.payload

theorem State.Inv.engineInv {s : State} (h : s.Inv) : s.engine.Inv where
  idle_iff_none := h.idle_iff_none
  link_ready := h.link_ready
  budget_pos := h.budget_pos
  attempts_below := h.attempts_below
  attempts_le := h.attempts_le
  payload := by
    cases hop : s.engine.op with
    | none | setSpeed => trivial
    | pairingDiscover own => exact h.discover_id own hop
    | pairingJoin own pr => exact h.join_id own pr hop
    | pairingAck own pr => exact ⟨h.ack_id own pr hop, h.ack_budget own pr hop⟩

/-- The rest of the invariant speaks of the parameters and the radio, which every step keeps (`RadioKept`). -/
theorem State.Inv.of_kept {s t : State} (h : s.Inv) (hkept : RadioKept s t) (hengine : t.engine.Inv) : t.Inv where
  params_wf := hkept.params ▸ h.params_wf
  idle_iff_none := hengine.idle_iff_none
  link_ready := hengine.link_ready
  budget_pos := hengine.budget_pos
  attempts_below := hengine.attempts_below
  attempts_le := hengine.attempts_le
  discover_id := fun _ hop => hengine.payload_of hop
  join_id := fun _ _ hop => hengine.payload_of hop
  ack_id := fun _ _ hop => (hengine.payload_of hop).1
  ack_budget := fun _ _ hop => (hengine.payload_of hop).2
  rxfifo_le := hkept.params ▸ hkept.rxfifo_le h.rxfifo_le
  cfg_wf := hkept.cfg_wf h.cfg_wf

theorem Engine.Inv.op_ne_none {e : Engine} (h : e.Inv) (hne : e.opstate ≠ .idle) : e.op ≠ .none :=
  fun hop => hne (h.idle_iff_none.2 hop)

theorem Engine.Inv.of_inFlight {e : Engine} (hlink : e.link = .ready)
    (hfly : e.opstate = .transmitting ∨ e.opstate = .waitingResponse) (hop : e.op ≠ .none)
    (hbelow : e.attempts.toNat < e.maxRetries.toNat) (hpayload : e.op.PayloadOk e.maxRetries) : e.Inv where
  idle_iff_none := iff_of_false (by obtain h | h := hfly <;> simp [h]) hop
  link_ready := fun _ => hlink
  budget_pos := fun _ => by omega
  attempts_below := fun _ => hbelow
  attempts_le := hbelow.le
  payload := hpayload

theorem Engine.Inv.of_complete {e : Engine} (hlink : e.link = .ready) (hdone : e.opstate = .operationComplete)
    (hop : e.op ≠ .none) (hpos : 1 ≤ e.maxRetries.toNat) (hle : e.attempts.toNat ≤ e.maxRetries.toNat)
    (hpayload : e.op.PayloadOk e.maxRetries) : e.Inv where
  idle_iff_none := iff_of_false (by simp [hdone]) hop
  link_ready := fun _ => hlink
  budget_pos := fun _ => hpos
  attempts_below := fun hfly => by simp [hdone] at hfly
  attempts_le := hle
  payload := hpayload

theorem Engine.Inv.of_idle {e : Engine} (hidle : e.opstate = .idle) (hop : e.op = .none)
    (hle : e.attempts.toNat ≤ e.maxRetries.toNat) : e.Inv where
  idle_iff_none := iff_of_true hidle hop
  link_ready := fun hne => absurd hop hne
  budget_pos := fun hne => absurd hop hne
  attempts_below := fun hfly => by simp [hidle] at hfly
  attempts_le := hle
  payload := by rw [hop]; trivial

/-- A count below a byte goes up without wrapping (log entry 22). -/
theorem toNat_succ_of_lt {a b : Byte} (h : a.toNat < b.toNat) : (a + 1).toNat = a.toNat + 1 := by
  have := b.isLt
  have hsum : a.toNat + (1 : Byte).toNat < 2 ^ 8 := by simp; omega
  simpa using BitVec.toNat_add_of_lt hsum

/-- The join phase has the own id of the discovery, the ack phase that of the join and a budget of one (R121, R122). -/
theorem process_engineInv {s t : State} (hinv : s.engine.Inv) (h : exec .process s = .next t) : t.engine.Inv := by
  obtain ⟨x, same | ⟨hlink, ⟨htrans, now, waits⟩ | ⟨hwait, hcases⟩⟩⟩ := process_engine h
  · exact same ▸ hinv
  · have hop := hinv.op_ne_none (by simp [htrans])
    rw [waits]
    exact .of_inFlight hlink (.inr rfl) hop (hinv.attempts_below (.inl htrans)) hinv.payload
  have hop := hinv.op_ne_none (by simp [hwait])
  have hbelow := hinv.attempts_below (.inr hwait)
  have hpos := hinv.budget_pos hop
  obtain noFrame | ⟨hleft, resent⟩ | ⟨-, exhausted⟩ | ⟨-, ok, done⟩ | ⟨own, pr, hdisc, hown, joins⟩ |
    ⟨own, pr, hjoin, acks⟩ := hcases
  · rw [noFrame]
    exact .of_inFlight hlink (.inr hwait) hop hbelow hinv.payload
  · rw [resent]
    exact .of_inFlight hlink (.inl rfl) hop hleft hinv.payload
  · rw [exhausted]
    exact .of_complete hlink rfl hop hpos ((toNat_succ_of_lt hbelow).trans_le hbelow) hinv.payload
  · rw [done]
    exact .of_complete hlink rfl hop hpos hbelow.le hinv.payload
  · rw [joins]
    exact .of_inFlight hlink (.inl rfl) nofun hpos ⟨hown, hinv.payload_of hdisc⟩
  · rw [acks]
    exact .of_inFlight hlink (.inl rfl) nofun Nat.one_pos ⟨hinv.payload_of hjoin, rfl⟩

theorem hostCommand_engineInv {s t : State} {i : Instr} (hhc : i.isHostCommand = true) (hwf : s.params.wf = true)
    (hinv : s.engine.Inv) (h : exec i s = .next t) : t.engine.Inv := by
  cases i with
  | init =>
    obtain same | ⟨-, hready, hlinks⟩ := init_engine h
    · exact same ▸ hinv
    · have hidle : s.engine.opstate = .idle := by
        by_contra hne
        exact hne (hready (hinv.link_ready (hinv.op_ne_none hne)))
      have hop := hinv.idle_iff_none.1 hidle
      obtain e | e := hlinks <;> rw [e] <;> exact .of_idle hidle hop hinv.attempts_le
  | startPairing =>
    obtain same | ⟨hlink, -, own, hlow, hhigh, e⟩ := startPairing_engine h
    · exact same ▸ hinv
    · rw [e]
      exact .of_inFlight hlink (.inl rfl) nofun (params_wf_nCmd hwf) ⟨hlow, hhigh⟩
  | startSetSpeed pr speed timer =>
    obtain same | ⟨hlink, -, e⟩ := startSetSpeed_engine h
    · exact same ▸ hinv
    · rw [e]
      exact .of_inFlight hlink (.inl rfl) nofun (params_wf_nCmd hwf) trivial
  | process => exact process_engineInv hinv h
  | resetOperationState =>
    obtain same | ⟨-, e⟩ := resetOperationState_engine h
    · exact same ▸ hinv
    · rw [e]
      exact .of_idle rfl rfl le_rfl
  | isOperationComplete | lastOperationSuccessful | getPairingResult | reservedHc =>
    obtain ⟨same, -, -⟩ := accessor_engine h (by simp)
    exact same ▸ hinv
  | _ => cases hhc

/-- The content of `rx_buf` is no part of the invariant. -/
theorem Engine.Inv.rxBuf {e : Engine} (h : e.Inv) (x : Frame) : ({ e with rxBuf := x } : Engine).Inv :=
  ⟨h.idle_iff_none, h.link_ready, h.budget_pos, h.attempts_below, h.attempts_le, h.payload⟩

theorem exec_engineInv {s t : State} {i : Instr} (hwf : s.params.wf = true) (hinv : s.engine.Inv)
    (h : exec i s = .next t) : t.engine.Inv := by
  cases hhc : i.isHostCommand with
  | true => exact hostCommand_engineInv hhc hwf hinv h
  | false =>
    obtain ⟨⟨x, e⟩, -⟩ := exec_engine_below hhc h
    exact e ▸ hinv.rxBuf x

/-- A step is steps of the radio agent or one instruction, in both cases after the input was taken (R9). -/
theorem step_cases {s t : State} (h : step s = .next t) :
    ∃ inputs : List Input, AirFrame { s with inputs := inputs } t ∨
      ∃ i : Instr, exec i { s with inputs := inputs } = .next t := by
  match hin : s.inputs with
  | [] =>
    rw [step_of_noInput hin] at h
    cases h
    exact ⟨s.inputs, .inl (radioGap_air s)⟩
  | .air a :: rest =>
    rw [step_of_air hin] at h
    cases h
    exact ⟨rest, .inl (radioStep_air a _)⟩
  | .word fmt bs :: rest =>
    match hd : decode s.params fmt bs with
    | .ok (i, left) =>
      rw [step_of_word hin hd] at h
      exact ⟨_, .inr ⟨i, h⟩⟩
    | .error e => simp [step, hin, hd] at h

/-- The queue of inputs is no part of the invariant. -/
theorem State.Inv.inputs {s : State} (h : s.Inv) (inputs : List Input) : ({ s with inputs := inputs } : State).Inv :=
  h.of_kept (.of_eq rfl rfl rfl rfl) h.engineInv

theorem AirFrame.kept {s u : State} (h : AirFrame s u) : RadioKept s u :=
  ⟨h.history, h.params, h.rxfifo_le, fun hwf => h.cfg ▸ hwf⟩

/-! ### The last attempt (R117, R130) -/

/-- What `dispatch_response` records: a mismatch at most. -/
theorem dispatchResponse_cause {s u : State} (h : dispatchResponse s = some u) :
    causeTrace u.history = causeTrace s.history ∨
      causeTrace u.history = causeTrace s.history ++ [.protocolMismatch] := by
  obtain ⟨-, rfl⟩ | ⟨_, -, -, rfl⟩ | ⟨ownId, pr, -, -, rfl⟩ | ⟨ownId, pr, -, rfl⟩ := dispatchResponse_cases h
  · exact .inl (by simp)
  · exact .inr (by simp)
  · exact .inl (by simp [enterJoin, send_eq])
  · exact .inl (by simp [enterAck, send_eq])

/-- Only a timeout without budget records RetriesExhausted, and it ends the operation in failure (R117, R137, R143). -/
theorem processWaiting_exhausted {now : U32} {s u : State} (h : processWaiting now s = some u)
    (hcause : causeTrace u.history = causeTrace s.history ++ [.retriesExhausted]) :
    s.engine.maxRetries.toNat ≤ (s.engine.attempts + 1).toNat ∧ u.radio.mode = .idle ∧
      ∃ x, u.engine = { s.engine with
        rxBuf := x, attempts := s.engine.attempts + 1, success := false, opstate := .operationComplete } := by
  obtain ⟨x, hx⟩ := readRxPayload_engine s
  obtain ⟨-, -, -, -, -, hpoll⟩ := readRxPayload_rest s
  generalize hread : readRxPayload s = p at hx hpoll
  obtain ⟨found, r⟩ := p
  replace hx : r.engine = { s.engine with rxBuf := x } := hx
  rw [← hpoll] at hcause
  cases found with
  | true =>
    rw [processWaiting_of_frame hread] at h
    obtain e | e := dispatchResponse_cause h <;> simp [e] at hcause
  | false =>
    cases hlate : timedOut r.engine now with
    | false =>
      rw [processWaiting_of_early hread hlate] at h
      cases h
      simp at hcause
    | true =>
      rw [processWaiting_of_timeout hread hlate] at h
      cases h
      by_cases hleft : (r.engine.attempts + 1).toNat < r.engine.maxRetries.toNat
      · rw [retryOrFail_of_budgetLeft hleft] at hcause
        simp at hcause
      · have hnone := Nat.not_lt.1 hleft
        rw [retryOrFail_of_exhausted hnone]
        simp only [hx] at hnone
        exact ⟨hnone, complete_idle_mode _ _, x, by simp [hx]⟩

/-! ### The obligations -/

/-- Settles O44: the engine registers by the inversion of each command, the radio and the parameters by `RadioKept`. -/
theorem stepKeepsTheInvariant : Obligations.StepKeepsTheInvariant := by
  intro s t hinv h
  obtain ⟨inputs, hcase⟩ := step_cases h
  have hinv' := hinv.inputs inputs
  obtain hair | ⟨i, hexec⟩ := hcase
  · exact hinv'.of_kept hair.kept (hair.engine ▸ hinv.engineInv)
  · exact hinv'.of_kept (exec_kept hexec) (exec_engineInv hinv'.params_wf hinv'.engineInv hexec)

/-- Settles O14: only a frame with no operation live could fault, and in WaitingResponse one is. -/
theorem processNeverFaults : Obligations.ProcessNeverFaults := by
  intro s hinv
  by_cases hlink : s.engine.link = .ready
  · cases hst : s.engine.opstate with
    | idle => exact ⟨_, exec_process_resting hlink (.inl hst)⟩
    | transmitting => exact ⟨_, exec_process_transmitting hlink hst⟩
    | operationComplete => exact ⟨_, exec_process_resting hlink (.inr hst)⟩
    | waitingResponse =>
      have hop := hinv.engineInv.op_ne_none (by simp [hst])
      obtain ⟨x, hx⟩ := readRxPayload_engine (drawClock s).2
      have hlive : (readRxPayload (drawClock s).2).2.engine.op ≠ .none := by rw [hx]; exact hop
      obtain ⟨u, hu⟩ : ∃ u, processWaiting (drawClock s).1 (drawClock s).2 = some u := by
        simp only [processWaiting]
        split
        · exact dispatchResponse_some hlive
        · split <;> exact ⟨_, rfl⟩
      exact ⟨_, (exec_process_waiting_iff hlink hst).2 ⟨u, hu, rfl⟩⟩
  · exact ⟨_, exec_process_notReady hlink⟩

/-- Settles O55: no other path of `PROCESS` records RetriesExhausted; there the count was below the budget and, counted
up, reaches it. -/
theorem exhaustionUsesTheWholeBudget : Obligations.ExhaustionUsesTheWholeBudget := by
  intro s t hinv h hcause
  by_cases hlink : s.engine.link = .ready
  · cases hst : s.engine.opstate with
    | idle =>
      rw [exec_process_resting hlink (.inl hst)] at h
      cases h
      simp at hcause
    | operationComplete =>
      rw [exec_process_resting hlink (.inr hst)] at h
      cases h
      simp at hcause
    | transmitting =>
      rw [exec_process_transmitting hlink hst] at h
      cases h
      simp [processTransmitting] at hcause
    | waitingResponse =>
      obtain ⟨u, hu, rfl⟩ := (exec_process_waiting_iff hlink hst).1 h
      obtain ⟨hnone, hidle, x, hengine⟩ := processWaiting_exhausted hu hcause
      have hbelow := hinv.attempts_below (.inr hst)
      have hall : s.engine.attempts + 1 = s.engine.maxRetries :=
        BitVec.eq_of_toNat_eq (le_antisymm ((toNat_succ_of_lt hbelow).trans_le hbelow) hnone)
      have hengine : ({ u with outcome := .ok [] } : State).engine = _ := hengine
      rw [hengine]
      exact ⟨hall, rfl, rfl, rfl, hidle⟩
  · rw [exec_process_notReady hlink] at h
    cases h
    simp at hcause

/-- Settles O49: the inversion of each host command says what it does to `op` and `attempts`. -/
theorem phasesMoveInOrder : Obligations.PhasesMoveInOrder := by
  intro s t i hhc h
  cases i with
  | init => obtain e | ⟨-, -, e | e⟩ := init_engine h <;> rw [e] <;> exact ⟨.inl rfl, .inl rfl⟩
  | startPairing =>
    obtain e | ⟨-, hidle, own, -, -, e⟩ := startPairing_engine h <;> rw [e]
    · exact ⟨.inl rfl, .inl rfl⟩
    · exact ⟨.inr (.inl ⟨rfl, hidle, own, rfl⟩), .inr (.inl rfl)⟩
  | startSetSpeed pr speed timer =>
    obtain e | ⟨-, hidle, e⟩ := startSetSpeed_engine h <;> rw [e]
    · exact ⟨.inl rfl, .inl rfl⟩
    · exact ⟨.inr (.inr (.inl ⟨pr, speed, timer, rfl, hidle, rfl⟩)), .inr (.inl rfl)⟩
  | process =>
    obtain ⟨x, e | ⟨-, ⟨-, now, e⟩ | ⟨hwait, hcases⟩⟩⟩ := process_engine h
    · rw [e]; exact ⟨.inl rfl, .inl rfl⟩
    · rw [e]; exact ⟨.inl rfl, .inl rfl⟩
    obtain e | ⟨-, e⟩ | ⟨-, e⟩ | ⟨-, ok, e⟩ | ⟨own, pr, hop, hown, e⟩ | ⟨own, pr, hop, e⟩ := hcases <;> rw [e]
    · exact ⟨.inl rfl, .inl rfl⟩
    · exact ⟨.inl rfl, .inr (.inr ⟨rfl, hwait, rfl⟩)⟩
    · exact ⟨.inl rfl, .inr (.inr ⟨rfl, hwait, rfl⟩)⟩
    · exact ⟨.inl rfl, .inl rfl⟩
    · exact ⟨.inr (.inr (.inr (.inl ⟨rfl, own, pr, hop, rfl, hown⟩))), .inr (.inl rfl)⟩
    · exact ⟨.inr (.inr (.inr (.inr (.inl ⟨rfl, own, pr, hop, rfl⟩)))), .inr (.inl rfl)⟩
  | resetOperationState =>
    obtain e | ⟨-, e⟩ := resetOperationState_engine h <;> rw [e]
    · exact ⟨.inl rfl, .inl rfl⟩
    · exact ⟨.inr (.inr (.inr (.inr (.inr ⟨rfl, rfl⟩)))), .inr (.inl rfl)⟩
  | isOperationComplete | lastOperationSuccessful | getPairingResult | reservedHc =>
    obtain ⟨e, -, -⟩ := accessor_engine h (by simp)
    rw [e]
    exact ⟨.inl rfl, .inl rfl⟩
  | _ => cases hhc

end Sys2Proof.Machine
end

section
/-! SUPPORT. The start commands (42_protocol_engine.md R105–R111, R129): the filter is programmed and a frame is sent. -/

namespace Sys2Proof.Machine

/-! ### Programming the filter and sending (R107, R108) -/

theorem send_rxfifo (f : Frame) (s : State) : s.radio.rxfifo <+: (send f s).radio.rxfifo :=
  resend_rxfifo { s with engine := { s.engine with txBuf := f } }

/-- What a state `t` is that was reached from `s`, with the engine registers at `e`, by programming the filter for the
network `nid` and sending `f`. While the radio agent keeps still through the eight transactions, the chip ends in TX
with the frame in its FIFO. -/
structure AddressedSend (nid : U32) (f : Frame) (s : State) (e : Engine) (t : State) : Prop where
  engine : t.engine = { e with opstate := .transmitting, txBuf := f }
  addr : t.radio.addr = nid.extractLsb' 0 8
  pktlen : t.radio.pktlen = s.radio.pktlen
  cfg : ∀ a, Memory.read t.radio.cfg a = Memory.read s.radio.cfg a
  rxfifo : s.radio.rxfifo <+: t.radio.rxfifo
  bus : busTrace t.history = busTrace s.history ++ addressEvents s.params nid ++ sendEvents s.params f
  cause : causeTrace t.history = causeTrace s.history
  context : s.sameContext t
  still : s.quiet 8 → t.radio.mode = .tx ∧ t.radio.txfifo = f.toList ∧ t.radio.rxfifo = s.radio.rxfifo

/-- The outcome of the step is no part of it. -/
theorem AddressedSend.answer {nid : U32} {f : Frame} {s t : State} {e : Engine} (h : AddressedSend nid f s e t)
    (o : StepOutcome) : AddressedSend nid f s e { t with outcome := o } :=
  ⟨h.engine, h.addr, h.pktlen, h.cfg, h.rxfifo, h.bus, h.cause, h.context, h.still⟩

theorem addressedSend (nid : U32) (f : Frame) (s : State) (e : Engine) {d : Draws} (hd : d.gaps = s.draws.gaps) :
    AddressedSend nid f s e (send f (programAddress nid { s with engine := e, draws := d })) where
  engine := by simp [send_eq]
  addr := by simp [send_eq, lowByte, byteOf]
  pktlen := by simp [send_eq]
  cfg := fun a => by simp [send_eq]
  rxfifo := by
    have hrx := programAddress_rxfifo nid { s with engine := e, draws := d }
    exact hrx.trans (send_rxfifo f _)
  bus := by simp [send_eq]
  cause := by simp [send_eq]
  context := ⟨by simp [send_eq], by simp [send_eq], by simp [send_eq]⟩
  still := fun hq => by
    obtain ⟨hquiet, hkeep⟩ :=
      quiet_programAddress (n := 6) (s := { s with engine := e, draws := d }) (State.quiet_congr hq hd) nid
    generalize programAddress nid { s with engine := e, draws := d } = v at hquiet hkeep
    obtain ⟨hmode, htx, hsame⟩ := quiet_resend (n := 0) (s := { v with engine := { v.engine with txBuf := f } }) hquiet
    exact ⟨hmode, htx, hsame.trans hkeep⟩

/-! ### The frames of a command (R97) -/

theorem buildCommand_bytes (p : Params) (pr : PairingRecord) (speed timer : Byte) :
    buildCommand p pr speed timer = if timer = 0 then
        #v[pr.mainType, pr.mainId, p.remoteType, pr.ownId, p.ttl, p.codeSetSpeed, 1, speed, 0, 0, 0, 0, 0, 0, 0, 0]
      else
        #v[pr.mainType, pr.mainId, p.remoteType, pr.ownId, p.ttl, p.codeSetTimer, 2, speed, timer,
          0, 0, 0, 0, 0, 0, 0] := by
  unfold buildCommand
  by_cases htimer : timer = 0
  · rw [if_pos htimer, htimer]
    rfl
  · have hpos : timer.toNat > 0 := Nat.pos_of_ne_zero fun h => htimer (BitVec.eq_of_toNat_eq h)
    rw [if_neg htimer, if_pos hpos]
    rfl

/-! ### Accepted starts -/

/-- The engine registers of an armed operation (R106). -/
def armedEngine (op : Op) (s : State) : Engine :=
  { s.engine with op := op, attempts := 0, maxRetries := s.params.nCmd, timeoutMs := s.params.tCmd, success := false }

theorem exec_startPairing_idle {s : State} (hlink : s.engine.link = .ready) (hidle : s.engine.opstate = .idle) :
    exec .startPairing s = .next
      { send (buildDiscovery s.params (drawOwnId s).1) (programAddress s.params.linkNetworkId
          { s with
            engine := armedEngine (.pairingDiscover (drawOwnId s).1) s
            draws := (drawOwnId s).2.draws }) with outcome := .ok [] } := by
  simp only [exec, execStartPairing, hlink, hidle, ne_eq, not_true_eq_false, if_false, finish]
  rfl

theorem exec_startSetSpeed_idle {s : State} (pr : PairingRecord) (speed timer : Byte)
    (hlink : s.engine.link = .ready) (hidle : s.engine.opstate = .idle) :
    exec (.startSetSpeed pr speed timer) s = .next
      { send (buildCommand s.params pr speed timer) (programAddress pr.networkId
          { s with engine := armedEngine (.setSpeed pr speed timer) s, draws := s.draws }) with outcome := .ok [] } := by
  simp only [exec, execStartSetSpeed, hlink, hidle, ne_eq, not_true_eq_false, if_false, finish]
  rfl

/-! ### The obligations -/

/-- Settles O3: the draw, `arm`, and the send of the discovery frame with the filter set for the link network. -/
theorem startPairingSendsDiscovery : Obligations.StartPairingSendsDiscovery := by
  intro s hlink hidle
  obtain ⟨hlow, hhigh⟩ := drawOwnId_range s
  have hsent := addressedSend s.params.linkNetworkId (buildDiscovery s.params (drawOwnId s).1) s
    (armedEngine (.pairingDiscover (drawOwnId s).1) s) (drawOwnId_draws_gaps s)
  replace hsent := hsent.answer (.ok [])
  exact ⟨(drawOwnId s).1, _, _, exec_startPairing_idle hlink hidle, hlow, hhigh, fun k rest hk => drawOwnId_cons hk,
    buildDiscovery_bytes _ _, hsent.engine, hsent.addr, hsent.pktlen, hsent.cfg, hsent.rxfifo, hsent.bus, hsent.cause,
    hsent.context, rfl, hsent.still⟩

/-- Settles O4: `arm`, and the send of the frame that fits the timer with the filter set for the record's network. -/
theorem startSetSpeedSendsCommand : Obligations.StartSetSpeedSendsCommand := by
  intro s pr speed timer hlink hidle
  have hsent := addressedSend pr.networkId (buildCommand s.params pr speed timer) s
    (armedEngine (.setSpeed pr speed timer) s) rfl
  replace hsent := hsent.answer (.ok [])
  exact ⟨_, _, exec_startSetSpeed_idle pr speed timer hlink hidle, buildCommand_bytes _ _ _ _, hsent.engine,
    hsent.addr, hsent.pktlen, hsent.cfg, hsent.rxfifo, hsent.bus, hsent.cause, hsent.context, rfl, hsent.still⟩

/-- Settles O2: behind the link check the opstate check answers Busy before anything is drawn or armed. -/
theorem busyStartChangesNothing : Obligations.BusyStartChangesNothing := by
  intro s hlink hbusy
  exact ⟨by simp [exec, execStartPairing, hlink, hbusy, finish],
    fun pr speed timer => by simp [exec, execStartSetSpeed, hlink, hbusy, finish]⟩

end Sys2Proof.Machine
end

section
/-! SUPPORT. `PROCESS` (42_protocol_engine.md R112–R123): the wait, a poll that finds no frame before and at the
timeout, and the response of each phase. -/

namespace Sys2Proof.Machine

/-! ### A poll without a frame (R115, R117) -/

@[simp] theorem busTrace_map_bus (l : List BusEvent) : busTrace (l.map .bus) = l := by
  induction l with
  | nil => rfl
  | cons t rest ih => simp [ih]

@[simp] theorem causeTrace_map_bus (l : List BusEvent) : causeTrace (l.map .bus) = [] := by
  induction l with
  | nil => rfl
  | cons t rest ih => simp [ih]

theorem timedOut_iff (e : Engine) (now : U32) :
    timedOut e now = true ↔ e.timeoutMs.toNat ≤ (now - e.attemptStart).toNat := by
  exact decide_eq_true_iff

/-- What a poll that finds no frame, or stops at the gate, makes of `s`; `rx_buf` is open (R25, log entry 12). -/
structure PollFailed (s r : State) (poll : List BusEvent) : Prop where
  failed : s.failedPoll poll
  engine : ∃ x, r.engine = { s.engine with rxBuf := x }
  radio : r.radio = s.radio
  history : r.history = s.history ++ poll.map .bus
  context : s.sameContext r

/-- The clock sample plays no part in what a failed poll does. -/
theorem readRxPayload_pollFailed {s : State} (h : s.NoFrame ∨ s.GateShut) :
    ∃ poll r, PollFailed s r poll ∧ readRxPayload (drawClock s).2 = (false, r) := by
  have hclock : (drawClock s).2.NoFrame ∨ (drawClock s).2.GateShut :=
    h.imp (fun hn => ⟨hn.params_wf, hn.gate, hn.still, hn.few⟩) id
  obtain ⟨l, x, d, hl, hrun⟩ := readRxPayload_failed hclock
  have hfailed : s.failedPoll l :=
    Or.imp id (fun ⟨hn, hb⟩ => ⟨⟨hn.params_wf, hn.gate, hn.still, hn.few⟩, hb⟩) hl
  exact ⟨l, { s with engine := { s.engine with rxBuf := x }, history := s.history ++ l.map .bus, draws := d },
    ⟨hfailed, ⟨x, rfl⟩, rfl, rfl, rfl, rfl, rfl⟩, hrun⟩

/-- What counting the attempt and recording the cause `c` after a failed poll make of `s` (R117), the radio agent's
steps before the cause included. -/
structure AttemptCounted (c : Cause) (s v : State) (poll : List BusEvent) : Prop where
  failed : s.failedPoll poll
  engine : ∃ x, v.engine = { s.engine with rxBuf := x, attempts := s.engine.attempts + 1 }
  context : s.sameContext v
  rxfifo : s.radio.rxfifo <+: v.radio.rxfifo
  regs : v.radio.addr = s.radio.addr ∧ v.radio.pktlen = s.radio.pktlen ∧ v.radio.cfg = s.radio.cfg
  bus : busTrace v.history = busTrace s.history ++ poll
  cause : causeTrace v.history = causeTrace s.history ++ [c]

theorem PollFailed.counted {s r : State} {poll : List BusEvent} (h : PollFailed s r poll) (c : Cause) :
    AttemptCounted c s
      (recordCause c { r with engine := { r.engine with attempts := r.engine.attempts + 1 } }) poll := by
  obtain ⟨x, hx⟩ := h.engine
  obtain ⟨hparams, hinputs, hmark⟩ := h.context
  have hrx := recordCause_rxfifo c { r with engine := { r.engine with attempts := r.engine.attempts + 1 } }
  refine ⟨h.failed, ⟨x, ?_⟩, ⟨?_, ?_, ?_⟩, h.radio ▸ hrx, ?_, ?_, ?_⟩
  · simp [hx]
  · simp [hparams]
  · simp [hinputs]
  · simp [hmark]
  · simp [h.radio]
  · simp [h.history]
  · simp [h.history]

/-! ### A poll that takes a frame (R115) -/

/-- What a poll that takes the waiting frame makes of `s`, with causes recorded after it. -/
structure FrameTaken (s r : State) (causes : List Cause) : Prop where
  engine : r.engine = { s.engine with rxBuf := frameOfBytes (s.radio.rxfifo.take 16) }
  enough : 16 ≤ s.radio.rxfifo.length
  context : s.sameContext r
  bus : ∃ b, 16 ≤ s.params.rxCount b ∧ busTrace r.history = busTrace s.history ++
    [.readStatus s.params.regRxbytes b, .burstRead s.params.regRxfifo (s.radio.rxfifo.take 16), .strobe .frx]
  cause : causeTrace r.history = causeTrace s.history ++ causes
  regs : r.radio.addr = s.radio.addr ∧ r.radio.pktlen = s.radio.pktlen ∧ r.radio.cfg = s.radio.cfg

/-- With a frame waiting, `PROCESS` in WaitingResponse answers what the dispatch of that frame comes to (R115, R118). -/
theorem exec_process_frameTaken {s : State} (hlink : s.engine.link = .ready)
    (hwait : s.engine.opstate = .waitingResponse) (hframe : s.FrameWaiting) :
    ∃ r, FrameTaken s r [] ∧
      ∀ u, dispatchResponse r = some u → exec .process s = .next { u with outcome := .ok [] } := by
  obtain ⟨hfound, hengine, hparams, hinputs, hmark, hbus, hcause, -, hregs⟩ := readRxPayload_frame hframe.drawClock
  refine ⟨(readRxPayload (drawClock s).2).2, ⟨hengine, hframe.enough, ⟨hparams, hinputs, hmark⟩, hbus, ?_, hregs⟩,
    fun u hu => (exec_process_waiting_iff hlink hwait).2 ⟨u, ?_, rfl⟩⟩
  · simpa using hcause
  · rw [processWaiting_of_frame (Prod.ext hfound rfl)]
    exact hu

theorem FrameTaken.buf {s r : State} {causes : List Cause} (h : FrameTaken s r causes) :
    r.engine.rxBuf.toList = s.radio.rxfifo.take 16 := by
  rw [h.engine]
  exact frameOfBytes_toList h.enough

theorem FrameTaken.recordCause {s r : State} {causes : List Cause} (h : FrameTaken s r causes) (c : Cause) :
    FrameTaken s (recordCause c r) (causes ++ [c]) where
  engine := by simp [h.engine]
  enough := h.enough
  context := by
    obtain ⟨hparams, hinputs, hmark⟩ := h.context
    exact ⟨by simp [hparams], by simp [hinputs], by simp [hmark]⟩
  bus := by simpa using h.bus
  cause := by simp [h.cause]
  regs := by simpa using h.regs

/-- An operation that ends on the frame it took (R109): everything a claim says of the state it ends in. -/
theorem FrameTaken.complete {s r t : State} {causes : List Cause} {ok : Bool} {o : StepOutcome}
    (h : FrameTaken s r causes)
    (ht : t = { complete ok s.params.idleOnResponseComplete r with outcome := o }) :
    t.engine = { s.engine with opstate := .operationComplete, success := ok, rxBuf := t.engine.rxBuf } ∧
    t.engine.rxBuf.toList = s.radio.rxfifo.take 16 ∧
    (s.params.idleOnResponseComplete = true → t.radio.mode = .idle) ∧ s.sameChipRegs t ∧
    (∃ b, 16 ≤ s.params.rxCount b ∧ busTrace t.history = busTrace s.history ++
      [.readStatus s.params.regRxbytes b, .burstRead s.params.regRxfifo (s.radio.rxfifo.take 16), .strobe .frx] ++
      (if s.params.idleOnResponseComplete then [.strobe .idle, .delay s.params.settleUs] else [])) ∧
    causeTrace t.history = causeTrace s.history ++ causes ∧ s.sameContext t := by
  subst ht
  obtain ⟨hparams, hinputs, hmark⟩ := h.context
  obtain ⟨b, hb, hbus⟩ := h.bus
  refine ⟨?_, ?_, fun hidle => ?_, State.sameChipRegs_of_eq ?_, ⟨b, hb, ?_⟩, ?_, ?_, ?_, ?_⟩
  · simp [h.engine]
  · simpa using h.buf
  · rw [hidle]
    exact complete_idle_mode ok r
  · simpa using h.regs
  · simp [hbus, hparams]
  · simp [h.cause]
  · simp [hparams]
  · simp [hinputs]
  · simp [hmark]

/-! ### The dispatch of a received frame (R118–R123) -/

theorem dispatchResponse_of_final {s : State}
    (h : (∃ pr speed timer, s.engine.op = .setSpeed pr speed timer) ∨ ∃ own pr, s.engine.op = .pairingAck own pr) :
    dispatchResponse s = some (complete true s.params.idleOnResponseComplete s) := by
  obtain ⟨_, _, _, hop⟩ | ⟨_, _, hop⟩ := h <;> simp [dispatchResponse, hop, classify]

theorem dispatchResponse_of_otherCode {s : State} {own : Byte} (hop : s.engine.op = .pairingDiscover own)
    (hcode : s.engine.rxBuf[5] ≠ s.params.codeJoinOpen) :
    dispatchResponse s =
      some (complete false s.params.idleOnResponseComplete (recordCause .protocolMismatch s)) := by
  simp only [dispatchResponse, hop, classify_otherCode hcode]

theorem dispatchResponse_of_joinOpen {s : State} {own : Byte} (hop : s.engine.op = .pairingDiscover own)
    (hcode : s.engine.rxBuf[5] = s.params.codeJoinOpen) :
    dispatchResponse s = some (enterJoin own (discoveryRecord s.engine.rxBuf own) s) := by
  simp only [dispatchResponse, hop, classify_joinOpen hcode]

theorem dispatchResponse_of_join {s : State} {own : Byte} {pr : PairingRecord}
    (hop : s.engine.op = .pairingJoin own pr) : dispatchResponse s = some (enterAck own pr s) := by
  simp [dispatchResponse, hop, classify]

/-- The discover-to-join change sends the join request with the filter set for the learned network (R121). -/
theorem enterJoin_addressedSend (own : Byte) (pr : PairingRecord) (s : State) :
    AddressedSend pr.networkId (buildJoinRequest s.params pr) s
      { s.engine with op := .pairingJoin own pr, attempts := 0 } (enterJoin own pr s) :=
  addressedSend _ _ s _ (d := s.draws) rfl

/-- The join request for the record of a discovery response (R95, R98). -/
theorem buildJoinRequest_bytes (p : Params) (f : Frame) (own : Byte) :
    buildJoinRequest p (discoveryRecord f own) = #v[f[2], f[3], p.remoteType, own, p.ttl, p.codeJoinRequest, 4,
      f[7], f[8], f[9], f[10], 0, 0, 0, 0, 0] := by
  simp only [buildJoinRequest, discoveryRecord, recordOf, bytesLe32_le32]
  rfl

/-- Byte 5 of a frame is byte 5 of the RX FIFO it was read from. -/
theorem frameOfBytes_take_code {l : List Byte} (h : 16 ≤ l.length) : l[5]? = some (frameOfBytes (l.take 16))[5] := by
  rw [frameOfBytes_getElem _ _ (by decide)]
  simp [show 5 < l.length by omega]

/-! ### The timeout (R117) -/

section
variable {s : State} {now : U32} {rest : List U32} (hlink : s.engine.link = .ready)
  (hwait : s.engine.opstate = .waitingResponse) (hpoll : s.NoFrame ∨ s.GateShut)
  (hclock : s.draws.clock = now :: rest) (hlate : s.engine.timeoutMs.toNat ≤ (now - s.engine.attemptStart).toNat)
include hlink hwait hpoll hclock hlate

theorem exec_process_timeout :
    ∃ poll r, PollFailed s r poll ∧ exec .process s = .next { retryOrFail r with outcome := .ok [] } := by
  obtain ⟨poll, r, hfailed, hrun⟩ := readRxPayload_pollFailed hpoll
  obtain ⟨x, hx⟩ := hfailed.engine
  have hnext := processWaiting_of_timeout hrun ((timedOut_iff _ now).2 (by rw [hx]; exact hlate))
  rw [← drawClock_cons hclock] at hnext
  exact ⟨poll, r, hfailed, (exec_process_waiting_iff hlink hwait).2 ⟨_, hnext, rfl⟩⟩

theorem exec_process_resends (hleft : (s.engine.attempts + 1).toNat < s.engine.maxRetries.toNat) :
    ∃ poll v, AttemptCounted .noResponse s v poll ∧ exec .process s = .next { resend v with outcome := .ok [] } := by
  obtain ⟨poll, r, hfailed, hexec⟩ := exec_process_timeout hlink hwait hpoll hclock hlate
  obtain ⟨x, hx⟩ := hfailed.engine
  rw [retryOrFail_of_budgetLeft (by rw [hx]; exact hleft)] at hexec
  exact ⟨poll, _, hfailed.counted .noResponse, hexec⟩

theorem exec_process_exhausted (hnone : s.engine.maxRetries.toNat ≤ (s.engine.attempts + 1).toNat) :
    ∃ poll v, AttemptCounted .retriesExhausted s v poll ∧
      exec .process s = .next { complete false true v with outcome := .ok [] } := by
  obtain ⟨poll, r, hfailed, hexec⟩ := exec_process_timeout hlink hwait hpoll hclock hlate
  obtain ⟨x, hx⟩ := hfailed.engine
  rw [retryOrFail_of_exhausted (by rw [hx]; exact hnone)] at hexec
  exact ⟨poll, _, hfailed.counted .retriesExhausted, hexec⟩

end

/-! ### The obligations -/

/-- Settles O5: the next state is the one after the clock sample, with the outcome. -/
theorem processRestsOutsideAnAttempt : Obligations.ProcessRestsOutsideAnAttempt :=
  fun _ hlink hrest => ⟨_, exec_process_resting hlink hrest, rfl⟩

/-- Settles O6: `set_mode_receive` behind the two engine writes; `quiet_strobe_settle` for the still agent. -/
theorem processTransmittingStartsTheWait : Obligations.ProcessTransmittingStartsTheWait := by
  intro s hlink htrans
  have hexec := exec_process_transmitting hlink htrans
  simp only [processTransmitting] at hexec
  refine ⟨(drawClock s).1, _, hexec, fun c rest hc => drawClock_cons hc, ?_, State.sameChipRegs_of_eq ?_,
    setModeReceive_rxfifo { (drawClock s).2 with engine := _ }, ?_, ?_, ⟨?_, ?_, ?_⟩, rfl, fun hq =>
      quiet_strobe_settle (s := { (drawClock s).2 with engine := _ }) hq (.inr ⟨rfl, rfl⟩) s.params.settleUs⟩
  all_goals simp

/-- Settles O7: before the timeout the state the failed poll left is the answer. -/
theorem pollWithoutFrameWaits : Obligations.PollWithoutFrameWaits := by
  intro s now rest hlink hwait hpoll hclock hearly
  obtain ⟨poll, r, hfailed, hrun⟩ := readRxPayload_pollFailed hpoll
  obtain ⟨x, hx⟩ := hfailed.engine
  have hnot : timedOut r.engine now = false := by
    rw [← Bool.not_eq_true, timedOut_iff, hx]
    exact Nat.not_le.2 hearly
  have hnext := processWaiting_of_early hrun hnot
  rw [← drawClock_cons hclock] at hnext
  refine ⟨_, (exec_process_waiting_iff hlink hwait).2 ⟨r, hnext, rfl⟩, ?_, hfailed.radio,
    ⟨poll, hfailed.failed, hfailed.history⟩, hfailed.context, rfl⟩
  simp [hx]

/-- Settles O8: the retry is `resend` behind the count and the cause. -/
theorem timeoutWithBudgetResends : Obligations.TimeoutWithBudgetResends := by
  intro s now rest hlink hwait hpoll hclock hlate hleft
  obtain ⟨poll, v, hcounted, hexec⟩ := exec_process_resends hlink hwait hpoll hclock hlate hleft
  obtain ⟨x, hx⟩ := hcounted.engine
  obtain ⟨hparams, hinputs, hmark⟩ := hcounted.context
  have hrx := hcounted.rxfifo.trans (resend_rxfifo v)
  refine ⟨_, hexec, ?_, State.sameChipRegs_of_eq ?_, hrx, ⟨poll, hcounted.failed, ?_⟩, ?_, ⟨?_, ?_, ?_⟩, rfl⟩
  · simp [hx]
  · simp [hcounted.regs]
  · simp [hcounted.bus, hparams, hx]
  · simp [hcounted.cause]
  · simp [hparams]
  · simp [hinputs]
  · simp [hmark]

/-- Settles O9: the failure is `complete false true` behind the count and the cause. -/
theorem timeoutWithoutBudgetFails : Obligations.TimeoutWithoutBudgetFails := by
  intro s now rest hlink hwait hpoll hclock hlate hnone
  obtain ⟨poll, v, hcounted, hexec⟩ := exec_process_exhausted hlink hwait hpoll hclock hlate hnone
  obtain ⟨x, hx⟩ := hcounted.engine
  obtain ⟨hparams, hinputs, hmark⟩ := hcounted.context
  have hrx := hcounted.rxfifo.trans (complete_rxfifo false true v)
  refine ⟨_, hexec, ?_, complete_idle_mode _ _, State.sameChipRegs_of_eq ?_, hrx, ⟨poll, hcounted.failed, ?_⟩, ?_,
    ⟨?_, ?_, ?_⟩, rfl⟩
  · simp [hx]
  · simp [hcounted.regs]
  · simp [hcounted.bus, hparams]
  · simp [hcounted.cause]
  · simp [hparams]
  · simp [hinputs]
  · simp [hmark]

/-- Settles O10: both operations are complete with the frame they took. -/
theorem anyFrameCompletesSetSpeedAndAck : Obligations.AnyFrameCompletesSetSpeedAndAck := by
  intro s hlink hwait hframe hop
  obtain ⟨r, htaken, hexec⟩ := exec_process_frameTaken hlink hwait hframe
  have hdispatch : dispatchResponse r = some (complete true r.params.idleOnResponseComplete r) :=
    dispatchResponse_of_final (by rw [htaken.engine]; exact hop)
  rw [htaken.context.1] at hdispatch
  obtain ⟨hengine, hbuf, hidle, hregs, hbus, hcause, hcontext⟩ := htaken.complete rfl
  exact ⟨_, hexec _ hdispatch, hengine, hbuf, hidle, hregs, hbus, by simpa using hcause, hcontext, rfl⟩

/-- Settles O11: the mismatch is recorded and the operation is complete without success, so there is no result. -/
theorem discoveryMismatchFails : Obligations.DiscoveryMismatchFails := by
  intro s own hlink hwait hframe hop hcode
  obtain ⟨r, htaken, hexec⟩ := exec_process_frameTaken hlink hwait hframe
  have hparams := htaken.context.1
  have hother : r.engine.rxBuf[5] ≠ r.params.codeJoinOpen := by
    rw [htaken.engine, hparams]
    exact fun h => hcode ((frameOfBytes_take_code hframe.enough).trans (congrArg some h))
  have hdispatch := dispatchResponse_of_otherCode (by rw [htaken.engine]; exact hop) hother
  rw [hparams] at hdispatch
  obtain ⟨hengine, hbuf, hidle, hregs, hbus, hcause, hcontext⟩ := (htaken.recordCause .protocolMismatch).complete rfl
  refine ⟨_, hexec _ hdispatch, hengine, hbuf, ?_, hidle, hregs, hbus, hcause, hcontext, rfl⟩
  simp [pairingResult]

/-- Settles O12: the record of the frame taken goes into `op`, its network into the filter, and the join request to it
is sent. -/
theorem discoveryMatchEntersJoin : Obligations.DiscoveryMatchEntersJoin := by
  intro s own f more hlink hwait hframe hop hfifo hcode
  obtain ⟨r, htaken, hexec⟩ := exec_process_frameTaken hlink hwait hframe
  obtain ⟨hparams, hinputs, hmark⟩ := htaken.context
  obtain ⟨b, hb, hbus⟩ := htaken.bus
  obtain ⟨haddr, hpktlen, hcfg⟩ := htaken.regs
  have htake : s.radio.rxfifo.take 16 = f.toList := by rw [hfifo, List.take_left' (by simp)]
  have hengine : r.engine = { s.engine with rxBuf := f } := by
    rw [htaken.engine, htake, frameOfBytes_of_toList]
  have hdispatch : dispatchResponse r = some (enterJoin own (discoveryRecord f own) r) := by
    have h := dispatchResponse_of_joinOpen (s := r) (own := own) (by rw [hengine]; exact hop)
      (by rw [hengine, hparams]; exact hcode)
    rwa [hengine] at h
  have hsent := enterJoin_addressedSend own (discoveryRecord f own) r
  generalize enterJoin own (discoveryRecord f own) r = u at hdispatch hsent
  have hnid : (discoveryRecord f own).networkId.extractLsb' 0 8 = f[7] := (byteOf_le32 f[7] f[8] f[9] f[10]).1
  obtain ⟨hparams', hinputs', hmark'⟩ := hsent.context
  refine ⟨discoveryRecord f own, buildJoinRequest r.params (discoveryRecord f own), _, hexec u hdispatch,
    le32_toNat _ _ _ _, rfl, rfl, rfl, ?_, hsent.engine.trans ?_, hsent.addr.trans hnid, hsent.pktlen.trans hpktlen,
    fun a => (hsent.cfg a).trans (by rw [hcfg]), ⟨b, hb, hsent.bus.trans ?_⟩, hsent.cause.trans ?_,
    ⟨hparams'.trans hparams, hinputs'.trans hinputs, hmark'.trans hmark⟩, rfl⟩
  · rw [buildJoinRequest_bytes, hparams]
  · rw [hengine]
  · rw [hbus, htake, hparams]
  · simpa using htaken.cause

/-- Settles O13: the acknowledgment goes out by `resend`, which leaves the filter as it is. -/
theorem joinResponseEntersAck : Obligations.JoinResponseEntersAck := by
  intro s own pr hlink hwait hframe hop
  obtain ⟨r, htaken, hexec⟩ := exec_process_frameTaken hlink hwait hframe
  obtain ⟨hparams, hinputs, hmark⟩ := htaken.context
  obtain ⟨b, hb, hbus⟩ := htaken.bus
  have hdispatch := dispatchResponse_of_join (s := r) (own := own) (pr := pr) (by rw [htaken.engine]; exact hop)
  refine ⟨buildAck s.params pr.mainType pr.mainId pr.ownId, _, hexec _ hdispatch, rfl, ?_, ?_,
    State.sameChipRegs_of_eq ?_, ⟨b, hb, ?_⟩, ?_, ⟨?_, ?_, ?_⟩, rfl⟩
  · simp [enterAck_eq, htaken.engine, hparams]
  · simpa [enterAck_eq] using htaken.buf
  · simpa [enterAck_eq] using htaken.regs
  · simp [enterAck_eq, hbus, hparams]
  · simpa [enterAck_eq] using htaken.cause
  · simp [enterAck_eq, hparams]
  · simp [enterAck_eq, hinputs]
  · simp [enterAck_eq, hmark]

end Sys2Proof.Machine
end

section
/-! SUPPORT. The commands beside the protocol (42_protocol_engine.md R124–R128): the accessors, the reset, the bring-up of
the link. -/

namespace Sys2Proof.Machine

/-! ### The reset (R127) -/

theorem exec_resetOperationState_ready {s : State} (hlink : s.engine.link = .ready) :
    exec .resetOperationState s = .next { engineReset s with outcome := .ok [] } := by
  simp [exec, execResetOperationState, hlink, finish]

/-- Idling a chip that is idle already only adds the two transactions to the history (R82, R88, R89). -/
theorem setModeIdle_of_idle {s : State} (h : s.radio.mode = .idle) :
    (setModeIdle s).radio = s.radio ∧
      (setModeIdle s).history = s.history ++ [.bus (.strobe .idle), .bus (.delay s.params.settleUs)] := by
  obtain ⟨hradio, hhist⟩ := radioGap_idle h
  have hstrobe : (busStrobe .idle s).radio = { s.radio with mode := .idle } ∧
      (busStrobe .idle s).history = s.history ++ [.bus (.strobe .idle)] := by
    simp [busStrobe, chipStrobe, setChipMode, pendingTxResolve, hradio, hhist, h]
  obtain ⟨hkept, hlogged⟩ := hstrobe
  obtain ⟨-, hquiet⟩ := radioGap_idle (busStrobe_idle_mode s)
  rw [← h] at hkept
  exact ⟨(setModeIdle_radio s).trans hkept, by simp [setModeIdle, busDelay, hquiet, hlogged]⟩

/-- The engine registers with those of the operation cleared. -/
def Engine.cleared (e : Engine) : Engine :=
  { e with opstate := .idle, op := .none, attempts := 0, maxRetries := 0, timeoutMs := 0, attemptStart := 0 }

theorem engineReset_eq (s : State) : engineReset s = setModeIdle { s with engine := s.engine.cleared } := rfl

/-! ### The bring-up of the link (R128) -/

section
variable {s : State} (hfault : s.engine.link ≠ .fault)
  (hbusy : ¬(s.engine.link = .ready ∧ s.engine.opstate ≠ .idle))
include hfault hbusy

theorem exec_init_succeeds (hok : (bringUp s).1 = true) : exec .init s = .next
    { (bringUp s).2 with engine := { (bringUp s).2.engine with link := .ready }, outcome := .ok [] } := by
  simp only [exec, execInit, if_neg hfault, if_neg hbusy, hok, if_true, finish]

theorem exec_init_fails (hok : (bringUp s).1 = false) :
    exec .init s = .next { setupFault (bringUp s).2 with outcome := .setupFault } := by
  simp only [exec, execInit, if_neg hfault, if_neg hbusy, hok, Bool.false_eq_true, if_false, finish]

end

/-! ### The obligations -/

/-- Settles O18: `set_mode_idle` behind the engine writes; `quiet_strobe_settle` for the still agent. -/
theorem resetReturnsToIdle : Obligations.ResetReturnsToIdle := by
  intro s hlink
  have hexec := exec_resetOperationState_ready hlink
  rw [engineReset_eq] at hexec
  refine ⟨_, hexec, ?_, setModeIdle_mode _, State.sameChipRegs_of_eq ?_,
    setModeIdle_rxfifo { s with engine := s.engine.cleared }, fun hq =>
      quiet_strobe_settle (s := { s with engine := s.engine.cleared }) hq (.inl ⟨rfl, rfl⟩) s.params.settleUs,
    ?_, ?_, ⟨?_, ?_, ?_⟩, rfl⟩
  · exact setModeIdle_engine _
  all_goals simp

/-- Settles O19: the first reset leaves the engine registers cleared already, and the chip idle, where the radio agent
has no step. -/
theorem resetIsIdempotent : Obligations.ResetIsIdempotent := by
  intro s t hlink h
  rw [exec_resetOperationState_ready hlink, engineReset_eq] at h
  injection h with h
  have hengine : t.engine = s.engine.cleared := by rw [← h]; exact setModeIdle_engine _
  have hparams : t.params = s.params := by rw [← h]; exact setModeIdle_params _
  have hmode : t.radio.mode = .idle := by rw [← h]; exact setModeIdle_mode _
  have hout : t.outcome = .ok [] := by rw [← h]
  have hexec := exec_resetOperationState_ready (s := t) (by rw [hengine]; exact hlink)
  rw [engineReset_eq] at hexec
  obtain ⟨hradio, hhist⟩ := setModeIdle_of_idle (s := { t with engine := t.engine.cleared }) hmode
  rw [← hparams]
  refine ⟨_, hexec, ?_, hradio, hhist, hout.symm⟩
  rw [hengine]
  exact setModeIdle_engine _

/-- Settles O20: the bring-up sequence, then the link by the draw; a failed one records its cause while the chip is idle,
so the radio stays as the sequence left it. -/
theorem initBringsUpTheLink : Obligations.InitBringsUpTheLink := by
  intro s hwf hfault hbusy
  obtain ⟨hengine, hparams, hinputs, hmark, -, hdraw, hbus, hcause⟩ := configureRadio_spec s
  obtain ⟨hmode, htx, hrx, hpktlen⟩ := configureRadio_radio hwf
  have hscript : ∀ b rest, s.draws.initOk = b :: rest → (bringUp s).1 = b :=
    fun b rest hb => drawInitOk_cons (hdraw.trans hb)
  cases hok : (bringUp s).1 with
  | true =>
    rw [hok] at hscript
    refine ⟨true, _, exec_init_succeeds hfault hbusy hok, hscript, ?_, hmode, htx, hrx, hpktlen, hbus, ?_,
      ⟨hparams, hinputs, hmark⟩, rfl⟩
    · simp [bringUp, hengine]
    · simpa [bringUp] using hcause
  | false =>
    rw [hok] at hscript
    obtain ⟨hradio, -⟩ := setupFault_idle (s := (bringUp s).2) hmode
    refine ⟨false, _, exec_init_fails hfault hbusy hok, hscript, ?_, ?_, ?_, ?_, ?_, ?_, ?_, ⟨?_, ?_, ?_⟩, rfl⟩
    · simp [setupFault, bringUp, hengine]
    · exact (congrArg Radio.mode hradio).trans hmode
    · exact (congrArg Radio.txfifo hradio).trans htx
    · exact (congrArg Radio.rxfifo hradio).trans hrx
    · exact (congrArg Radio.pktlen hradio).trans hpktlen
    · simpa [setupFault, bringUp] using hbus
    · simpa [setupFault, bringUp] using hcause
    · simpa [setupFault, bringUp] using hparams
    · simpa [setupFault, bringUp] using hinputs
    · simpa [setupFault, bringUp] using hmark

/-- Settles O15: behind the link check the response is `isComplete`. -/
theorem isOperationCompleteReports : Obligations.IsOperationCompleteReports := by
  intro s hlink
  simp [exec, execIsOperationComplete, hlink, finish, isComplete, boolByte]

/-- Settles O16: behind the link check the response is the flag. -/
theorem lastOperationSuccessfulReports : Obligations.LastOperationSuccessfulReports := by
  intro s hlink
  simp [exec, execLastOperationSuccessful, hlink, finish, boolByte]

theorem exec_getPairingResult_none {s : State} (hlink : s.engine.link = .ready)
    (hnone : pairingResult s.engine = none) :
    exec .getPairingResult s = .next { s with outcome := .ok [0] } := by
  simp [exec, execGetPairingResult, hlink, hnone, finish, resultBytes]

/-- There is a result only where a PairingAck completed with success (R27). -/
theorem pairingResult_eq_none {e : Engine}
    (h : e.opstate ≠ .operationComplete ∨ e.success = false ∨ ∀ own pr, e.op ≠ .pairingAck own pr) :
    pairingResult e = none := by
  obtain hopen | hfailed | hother := h
  · simp [pairingResult, isComplete, hopen]
  · simp [pairingResult, hfailed]
  · unfold pairingResult
    split
    · cases hop : e.op with
      | pairingAck own pr => exact absurd hop (hother own pr)
      | none | pairingDiscover | pairingJoin | setSpeed => rfl
    · rfl

/-- Settles O17: the record by its little-endian bytes where there is a result, and the one byte 0 where not. -/
theorem getPairingResultReports : Obligations.GetPairingResultReports := by
  intro s hlink
  refine ⟨fun own pr hdone hsuccess hop => ?_, fun h => exec_getPairingResult_none hlink (pairingResult_eq_none h)⟩
  refine ⟨byteOf pr.networkId 0, byteOf pr.networkId 1, byteOf pr.networkId 2, byteOf pr.networkId 3, ?_,
    getPairingResult_of_success ⟨hlink, hdone, hop⟩ hsuccess⟩
  rw [← le32_toNat, le32_byteOf]

end Sys2Proof.Machine
end

section
/-! SUPPORT. Errors and outcomes (60_exceptions.md R132–R145): what is refused, what a host command does to the refused
mark and to the recorded causes, and what no step ever undoes. -/

namespace Sys2Proof.Machine

/-! ### Refusals (R138, R140) -/

/-- Every host command but `INIT` checks the link first, the reserved opcodes among them. -/
theorem exec_notReady {i : Instr} {s : State} (hhc : i.isHostCommand = true) (hinit : i ≠ .init)
    (hlink : s.engine.link ≠ .ready) : exec i s = refuse .linkNotReady s := by
  cases i with
  | init => exact absurd rfl hinit
  | startPairing | startSetSpeed | process | isOperationComplete | lastOperationSuccessful | getPairingResult
  | resetOperationState | reservedHc => exact if_pos hlink
  | _ => cases hhc

theorem exec_init_faulted {s : State} (hfault : s.engine.link = .fault) :
    exec .init s = refuse .setupFaulted s := if_pos hfault

theorem exec_init_duringOperation {s : State} (hlink : s.engine.link = .ready) (hbusy : s.engine.opstate ≠ .idle) :
    exec .init s = refuse .initDuringOperation s := by
  simp [exec, execInit, hlink, hbusy]

theorem exec_reservedHc {s : State} (hlink : s.engine.link = .ready) (opcode : Byte) :
    exec (.reservedHc opcode) s = refuse .reservedOpcode s := if_neg (not_not.2 hlink)

/-- After a fault every host command is refused (R138). -/
theorem hostCommand_faulted {i : Instr} {s : State} (hhc : i.isHostCommand = true) (hfault : s.engine.link = .fault) :
    ∃ r, exec i s = refuse r s := by
  by_cases hinit : i = .init
  · subst hinit
    exact ⟨_, exec_init_faulted hfault⟩
  · exact ⟨_, exec_notReady hhc hinit (by simp [hfault])⟩

/-! ### The causes of a poll (R117, R120) -/

/-- The cause of a timeout: whether the budget leaves another attempt (R135, R137). -/
def timeoutCause (e : Engine) : Cause :=
  if (e.attempts + 1).toNat < e.maxRetries.toNat then .noResponse else .retriesExhausted

theorem retryOrFail_mark_and_cause (s : State) :
    (retryOrFail s).refusedMark = s.refusedMark ∧
      causeTrace (retryOrFail s).history = causeTrace s.history ++ [timeoutCause s.engine] := by
  by_cases hleft : (s.engine.attempts + 1).toNat < s.engine.maxRetries.toNat
  · rw [retryOrFail_of_budgetLeft hleft, timeoutCause, if_pos hleft]
    simp
  · rw [retryOrFail_of_exhausted (Nat.not_lt.1 hleft), timeoutCause, if_neg hleft]
    simp

theorem dispatchResponse_refusedMark {s u : State} (h : dispatchResponse s = some u) :
    u.refusedMark = s.refusedMark := by
  obtain ⟨-, rfl⟩ | ⟨_, -, -, rfl⟩ | ⟨ownId, pr, -, -, rfl⟩ | ⟨ownId, pr, -, rfl⟩ := dispatchResponse_cases h
  · simp
  · simp
  · simp [enterJoin, send_eq]
  · simp [enterAck, send_eq]

/-- A dispatch records nothing but the mismatch of a discovery response with another code (R120, R136). -/
theorem dispatchResponse_cause_cases {s u : State} (h : dispatchResponse s = some u) :
    causeTrace u.history = causeTrace s.history ∨
      (causeTrace u.history = causeTrace s.history ++ [.protocolMismatch] ∧
        (∃ ownId, s.engine.op = .pairingDiscover ownId) ∧ u.engine.rxBuf[5] ≠ s.params.codeJoinOpen) := by
  obtain ⟨-, rfl⟩ | ⟨ownId, hop, hcode, rfl⟩ | ⟨ownId, pr, -, -, rfl⟩ | ⟨ownId, pr, -, rfl⟩ :=
    dispatchResponse_cases h
  · exact .inl (by simp)
  · exact .inr ⟨by simp, ⟨ownId, hop⟩, by simpa using hcode⟩
  · exact .inl (by simp [enterJoin, send_eq])
  · exact .inl (by simp [enterAck, send_eq])

/-- A poll keeps the mark, and records a mismatch where it found a frame, the timeout's cause where it found none in
time, or nothing. -/
theorem processWaiting_mark_and_cause {now : U32} {s u : State} (h : processWaiting now s = some u) :
    u.refusedMark = s.refusedMark ∧
      (causeTrace u.history = causeTrace s.history ∨
        (causeTrace u.history = causeTrace s.history ++ [.protocolMismatch] ∧
          (∃ ownId, s.engine.op = .pairingDiscover ownId) ∧ u.engine.rxBuf[5] ≠ s.params.codeJoinOpen) ∨
        (causeTrace u.history = causeTrace s.history ++ [timeoutCause s.engine] ∧ timedOut s.engine now = true)) := by
  obtain ⟨x, hengine⟩ := readRxPayload_engine s
  obtain ⟨hmark, -, -, -, -, hcause⟩ := readRxPayload_rest s
  have hparams := (readRxPayload_kept s).params
  generalize hread : readRxPayload s = p at hengine hmark hcause hparams
  obtain ⟨found, r⟩ := p
  dsimp only at hengine hmark hcause hparams
  rw [← hmark, ← hcause, ← hparams]
  cases found with
  | true =>
    rw [processWaiting_of_frame hread] at h
    have hdispatch := dispatchResponse_cause_cases h
    simp only [hengine] at hdispatch
    exact ⟨dispatchResponse_refusedMark h, hdispatch.imp_right .inl⟩
  | false =>
    have htimeout : timedOut r.engine now = timedOut s.engine now := by rw [hengine]; rfl
    cases hlate : timedOut r.engine now with
    | false =>
      rw [processWaiting_of_early hread hlate] at h
      cases h
      exact ⟨rfl, .inl rfl⟩
    | true =>
      rw [processWaiting_of_timeout hread hlate] at h
      cases h
      obtain ⟨hkept, hrecorded⟩ := retryOrFail_mark_and_cause r
      rw [hengine] at hrecorded
      exact ⟨hkept, .inr (.inr ⟨hrecorded, htimeout ▸ hlate⟩)⟩

/-! ### The mark and the causes after a host command (R133, R140) -/

/-- R133's "raised by" column: where the host command `i` that leads from `s` to `t` may record the cause `c`. -/
def CauseRaised (i : Instr) (s t : State) (c : Cause) : Prop :=
  (i = .init ∧ c = .setupFault ∧ t.outcome = .setupFault) ∨
    (i = .process ∧ s.engine.opstate = .waitingResponse ∧
      ((c = .protocolMismatch ∧ (∃ ownId, s.engine.op = .pairingDiscover ownId) ∧
          t.engine.rxBuf[5] ≠ s.params.codeJoinOpen) ∨
        (c = timeoutCause s.engine ∧ ∀ now rest, s.draws.clock = now :: rest →
          s.engine.timeoutMs.toNat ≤ (now - s.engine.attemptStart).toNat)))

/-- What a host command that is not refused does to the mark and the causes: the mark stays, and one cause is recorded
at most. -/
structure Answered (i : Instr) (s t : State) : Prop where
  mark : t.refusedMark = s.refusedMark
  cause : causeTrace t.history = causeTrace s.history ∨
    ∃ c, causeTrace t.history = causeTrace s.history ++ [c] ∧ CauseRaised i s t c

theorem Answered.of_silent {i : Instr} {s t : State} (hmark : t.refusedMark = s.refusedMark)
    (hcause : causeTrace t.history = causeTrace s.history) : Answered i s t := ⟨hmark, .inl hcause⟩

theorem Answered.of_finish {i : Instr} {s t : State} {o : StepOutcome} (h : finish o s = .next t) : Answered i s t := by
  cases h
  exact .of_silent rfl rfl

theorem AddressedSend.answered {nid : U32} {f : Frame} {s t : State} {e : Engine} (h : AddressedSend nid f s e t)
    (i : Instr) : Answered i s t := by
  obtain ⟨-, -, hmark⟩ := h.context
  exact .of_silent hmark h.cause

/-- An accepted `INIT` records a cause where it fails (R128, R138). -/
theorem init_answered {s t : State} (hfault : s.engine.link ≠ .fault)
    (hbusy : ¬(s.engine.link = .ready ∧ s.engine.opstate ≠ .idle)) (h : exec .init s = .next t) :
    Answered .init s t := by
  obtain ⟨-, -, -, hmark, -, -, -, hcause⟩ := configureRadio_spec s
  cases hok : (bringUp s).1 with
  | true =>
    rw [exec_init_succeeds hfault hbusy hok] at h
    cases h
    exact .of_silent hmark hcause
  | false =>
    rw [exec_init_fails hfault hbusy hok] at h
    cases h
    exact ⟨by simp [setupFault, bringUp, hmark],
      .inr ⟨.setupFault, by simp [setupFault, bringUp, hcause], .inl ⟨rfl, rfl, rfl⟩⟩⟩

theorem startPairing_answered {s t : State} (hlink : s.engine.link = .ready) (h : exec .startPairing s = .next t) :
    Answered .startPairing s t := by
  by_cases hidle : s.engine.opstate = .idle
  · rw [exec_startPairing_idle hlink hidle] at h
    injection h with h
    rw [← h]
    exact ((addressedSend _ _ s _ (drawOwnId_draws_gaps s)).answer (.ok [])).answered _
  · rw [(busyStartChangesNothing s hlink hidle).1] at h
    cases h
    exact .of_silent rfl rfl

theorem startSetSpeed_answered {pr : PairingRecord} {speed timer : Byte} {s t : State}
    (hlink : s.engine.link = .ready) (h : exec (.startSetSpeed pr speed timer) s = .next t) :
    Answered (.startSetSpeed pr speed timer) s t := by
  by_cases hidle : s.engine.opstate = .idle
  · rw [exec_startSetSpeed_idle pr speed timer hlink hidle] at h
    injection h with h
    rw [← h]
    exact ((addressedSend _ _ s _ rfl).answer (.ok [])).answered _
  · rw [(busyStartChangesNothing s hlink hidle).2] at h
    cases h
    exact .of_silent rfl rfl

/-- `PROCESS` records a cause in WaitingResponse only, and that of the poll (R112, R115). -/
theorem process_answered {s t : State} (hlink : s.engine.link = .ready) (h : exec .process s = .next t) :
    Answered .process s t := by
  cases hst : s.engine.opstate with
  | idle =>
    rw [exec_process_resting hlink (.inl hst)] at h
    cases h
    exact .of_silent rfl rfl
  | operationComplete =>
    rw [exec_process_resting hlink (.inr hst)] at h
    cases h
    exact .of_silent rfl rfl
  | transmitting =>
    rw [exec_process_transmitting hlink hst] at h
    cases h
    exact .of_silent (by simp [processTransmitting]) (by simp [processTransmitting])
  | waitingResponse =>
    obtain ⟨u, hu, rfl⟩ := (exec_process_waiting_iff hlink hst).1 h
    obtain ⟨hmark, hnone | ⟨hmismatch, hraised⟩ | ⟨htimeout, hlate⟩⟩ := processWaiting_mark_and_cause hu
    · exact .of_silent hmark hnone
    · exact ⟨hmark, .inr ⟨_, hmismatch, .inr ⟨rfl, hst, .inl ⟨rfl, hraised⟩⟩⟩⟩
    · refine ⟨hmark, .inr ⟨_, htimeout, .inr ⟨rfl, hst, .inr ⟨rfl, fun now rest hclock => ?_⟩⟩⟩⟩
      rw [drawClock_cons hclock] at hlate
      exact (timedOut_iff _ now).1 hlate

/-- A host command is refused, which sets the mark and does nothing else, or it is answered. -/
theorem hostCommand_refused_or_answered {i : Instr} {s t : State} (hhc : i.isHostCommand = true)
    (h : exec i s = .next t) : (∃ r, refuse r s = .next t) ∨ Answered i s t := by
  by_cases hinit : i = .init
  · subst hinit
    by_cases hfault : s.engine.link = .fault
    · exact .inl ⟨_, exec_init_faulted hfault ▸ h⟩
    by_cases hbusy : s.engine.link = .ready ∧ s.engine.opstate ≠ .idle
    · exact .inl ⟨_, exec_init_duringOperation hbusy.1 hbusy.2 ▸ h⟩
    exact .inr (init_answered hfault hbusy h)
  by_cases hlink : s.engine.link = .ready
  · cases i with
    | init => exact absurd rfl hinit
    | reservedHc opcode => exact .inl ⟨_, exec_reservedHc hlink opcode ▸ h⟩
    | startPairing => exact .inr (startPairing_answered hlink h)
    | startSetSpeed pr speed timer => exact .inr (startSetSpeed_answered hlink h)
    | process => exact .inr (process_answered hlink h)
    | resetOperationState =>
      rw [exec_resetOperationState_ready hlink] at h
      cases h
      exact .inr (.of_silent (by simp [engineReset]) (by simp [engineReset]))
    | isOperationComplete | lastOperationSuccessful | getPairingResult =>
      exact .inr (.of_finish ((if_neg (not_not.2 hlink)).symm.trans h))
    | _ => cases hhc
  · exact .inl ⟨_, exec_notReady hhc hinit hlink ▸ h⟩

/-! ### What no instruction undoes (R138, R140) -/

theorem exec_refusedMark {i : Instr} {s t : State} (h : exec i s = .next t) (hmark : s.refusedMark = true) :
    t.refusedMark = true := by
  cases hhc : i.isHostCommand with
  | true =>
    obtain ⟨r, hr⟩ | hans := hostCommand_refused_or_answered hhc h
    · cases hr
      rfl
    · exact hans.mark.trans hmark
  | false => exact (exec_engine_below hhc h).2.trans hmark

theorem exec_link_fault {i : Instr} {s t : State} (hfault : s.engine.link = .fault) (h : exec i s = .next t) :
    t.engine.link = .fault := by
  cases hhc : i.isHostCommand with
  | true =>
    obtain ⟨r, hr⟩ := hostCommand_faulted hhc hfault
    rw [hr] at h
    cases h
    exact hfault
  | false =>
    obtain ⟨⟨x, hx⟩, -⟩ := exec_engine_below hhc h
    rw [hx]
    exact hfault

/-! ### The obligations -/

/-- Settles O1: the checks each command makes before anything else; `refuse` is the next state the statement names. -/
theorem refusedCommandsOnlySetTheMark : Obligations.RefusedCommandsOnlySetTheMark :=
  fun _ => ⟨fun _ => exec_notReady, exec_init_faulted, exec_init_duringOperation, exec_reservedHc⟩

/-- Settles O47: the radio agent writes no engine register, every host command is refused in FAULT, and an instruction
below them writes `rx_buf` at most. -/
theorem faultedLinkIsNeverLeft : Obligations.FaultedLinkIsNeverLeft := by
  intro s t hfault h
  obtain ⟨inputs, hair | ⟨i, hexec⟩⟩ := step_cases h
  · rw [hair.engine]
    exact hfault
  · exact exec_link_fault (s := { s with inputs := inputs }) hfault hexec

/-- Settles O48: the parameters and the history by `RadioKept`, the mark by the inversion of each host command. -/
theorem markParamsAndHistoryPersist : Obligations.MarkParamsAndHistoryPersist := by
  intro s t h
  obtain ⟨inputs, hair | ⟨i, hexec⟩⟩ := step_cases h
  · exact ⟨hair.refusedMark.trans, hair.params, hair.history⟩
  · have hkept := exec_kept hexec
    exact ⟨exec_refusedMark (s := { s with inputs := inputs }) hexec, hkept.params, hkept.history⟩

/-- Settles O56: a refused command records nothing, an answered one a cause at most, where `CauseRaised` has it. -/
theorem atMostOneCausePerCommand : Obligations.AtMostOneCausePerCommand := by
  intro s t i hhc h
  obtain ⟨r, hr⟩ | ⟨-, hnone | ⟨c, hone, hraised⟩⟩ := hostCommand_refused_or_answered hhc h
  · cases hr
    exact ⟨[], by simp, by simp, nofun⟩
  · exact ⟨[], by simpa using hnone, by simp, nofun⟩
  · exact ⟨[c], hone, le_rfl, fun c' hc' => List.mem_singleton.1 hc' ▸ hraised⟩

end Sys2Proof.Machine
end

section
/-! SUPPORT. Reset and hazards (70_reset_and_hazards.md): the registers after reset (R153), the attempts an operation
may still make (R158), and the bus events of one host command (R170). -/

namespace Sys2Proof.Machine

/-! ### The ways a poll step ends (R115) -/

/-- A frame found is dispatched; without one the clock decides between waiting on and the timeout. -/
theorem processWaiting_ways {now : U32} {s u : State} (h : processWaiting now s = some u) :
    ∃ r, (readRxPayload s = (true, r) ∧ dispatchResponse r = some u) ∨
      (readRxPayload s = (false, r) ∧ timedOut s.engine now = false ∧ u = r) ∨
      (readRxPayload s = (false, r) ∧ timedOut s.engine now = true ∧ u = retryOrFail r) := by
  obtain ⟨x, hengine⟩ := readRxPayload_engine s
  generalize hread : readRxPayload s = p at hengine
  obtain ⟨found, r⟩ := p
  have htimeout : timedOut r.engine now = timedOut s.engine now := by rw [hengine]; rfl
  refine ⟨r, ?_⟩
  cases found with
  | true => exact .inl ⟨rfl, processWaiting_of_frame hread now ▸ h⟩
  | false =>
    cases hlate : timedOut r.engine now with
    | false =>
      rw [processWaiting_of_early hread hlate] at h
      exact .inr (.inl ⟨rfl, htimeout ▸ hlate, (Option.some.inj h).symm⟩)
    | true =>
      rw [processWaiting_of_timeout hread hlate] at h
      exact .inr (.inr ⟨rfl, htimeout ▸ hlate, (Option.some.inj h).symm⟩)

theorem timedOut_drawClock_iff {s : State} {now : U32} {rest : List U32} (hclock : s.draws.clock = now :: rest) :
    timedOut (drawClock s).2.engine (drawClock s).1 = true ↔
      s.engine.timeoutMs.toNat ≤ (now - s.engine.attemptStart).toNat := by
  rw [drawClock_cons hclock]
  exact timedOut_iff _ _

theorem timedOut_drawClock_eq_false_iff {s : State} {now : U32} {rest : List U32}
    (hclock : s.draws.clock = now :: rest) :
    timedOut (drawClock s).2.engine (drawClock s).1 = false ↔
      (now - s.engine.attemptStart).toNat < s.engine.timeoutMs.toNat := by
  rw [← Bool.not_eq_true, timedOut_drawClock_iff hclock, Nat.not_le]

/-! ### The attempts left (R158) -/

/-- The attempts of the phases after the one an operation is in. -/
def Op.laterAttempts (budget : Nat) : Op → Nat
  | .pairingDiscover _ => budget + 1
  | .pairingJoin _ _ => 1
  | .none | .pairingAck _ _ | .setSpeed _ _ _ => 0

theorem Engine.attemptsLeft_of_resting {e : Engine} (h : e.opstate = .idle ∨ e.opstate = .operationComplete) :
    e.attemptsLeft = 0 := by
  obtain h | h := h <;> simp [Engine.attemptsLeft, h]

theorem Engine.attemptsLeft_of_inFlight {e : Engine} (hfly : e.opstate = .transmitting ∨ e.opstate = .waitingResponse)
    (hop : e.op ≠ .none) :
    e.attemptsLeft = e.maxRetries.toNat - e.attempts.toNat + e.op.laterAttempts e.maxRetries.toNat := by
  cases hcase : e.op with
  | none => exact absurd hcase hop
  | pairingDiscover | pairingJoin | pairingAck | setSpeed =>
    obtain h | h := hfly <;> simp [Engine.attemptsLeft, Op.laterAttempts, h, hcase, Nat.add_assoc]

theorem Engine.Inv.attemptsLeft_pos {e : Engine} (h : e.Inv)
    (hfly : e.opstate = .transmitting ∨ e.opstate = .waitingResponse) : 0 < e.attemptsLeft := by
  have hop := h.op_ne_none (by obtain h | h := hfly <;> simp [h])
  have hbelow := h.attempts_below hfly
  rw [Engine.attemptsLeft_of_inFlight hfly hop]
  omega

theorem Engine.Inv.attemptsLeft_eq_zero_iff {e : Engine} (h : e.Inv) :
    e.attemptsLeft = 0 ↔ e.opstate = .idle ∨ e.opstate = .operationComplete := by
  refine ⟨fun hzero => ?_, Engine.attemptsLeft_of_resting⟩
  cases hst : e.opstate with
  | idle => exact .inl rfl
  | operationComplete => exact .inr rfl
  | transmitting => exact absurd hzero (h.attemptsLeft_pos (.inl hst)).ne'
  | waitingResponse => exact absurd hzero (h.attemptsLeft_pos (.inr hst)).ne'

section
variable {s : State} (hinv : s.engine.Inv) (hwait : s.engine.opstate = .waitingResponse)
include hinv hwait

/-- A timeout counts the attempt up, and without budget it ends the operation (R117). -/
theorem retryOrFail_attemptsLeft_lt : (retryOrFail s).engine.attemptsLeft < s.engine.attemptsLeft := by
  by_cases hleft : (s.engine.attempts + 1).toNat < s.engine.maxRetries.toNat
  · have hop := hinv.op_ne_none (by simp [hwait])
    have hbelow := hinv.attempts_below (.inr hwait)
    have hcount := toNat_succ_of_lt hbelow
    rw [retryOrFail_of_budgetLeft hleft, resend_engine, recordCause_engine,
      Engine.attemptsLeft_of_inFlight (.inr hwait) hop]
    refine lt_of_eq_of_lt (Engine.attemptsLeft_of_inFlight (.inl rfl) hop) ?_
    dsimp only
    omega
  · rw [retryOrFail_of_exhausted (Nat.not_lt.1 hleft), complete_engine, Engine.attemptsLeft_of_resting (.inr rfl)]
    exact hinv.attemptsLeft_pos (.inr hwait)

/-- A frame ends the operation, or its phase with the attempts that phase had left: at least the one it answers (R121,
R122). -/
theorem dispatchResponse_attemptsLeft_lt {u : State} (h : dispatchResponse s = some u) :
    u.engine.attemptsLeft < s.engine.attemptsLeft := by
  have hpos := hinv.attemptsLeft_pos (.inr hwait)
  have hleft := Engine.attemptsLeft_of_inFlight (.inr hwait) (hinv.op_ne_none (by simp [hwait]))
  have hbelow := hinv.attempts_below (.inr hwait)
  obtain ⟨-, rfl⟩ | ⟨_, -, -, rfl⟩ | ⟨own, pr, hop, -, rfl⟩ | ⟨own, pr, hop, rfl⟩ := dispatchResponse_cases h
  · rwa [complete_engine, Engine.attemptsLeft_of_resting (.inr rfl)]
  · rwa [complete_engine, Engine.attemptsLeft_of_resting (.inr rfl)]
  · rw [hleft, hop, (enterJoin_addressedSend own pr s).engine]
    refine lt_of_eq_of_lt (Engine.attemptsLeft_of_inFlight (.inl rfl) nofun) ?_
    dsimp only [Op.laterAttempts]
    omega
  · rw [hleft, hop, enterAck_eq, resend_engine]
    refine lt_of_eq_of_lt (Engine.attemptsLeft_of_inFlight (.inl rfl) nofun) ?_
    simp only [Op.laterAttempts, BitVec.ofNat_eq_ofNat, BitVec.toNat_ofNat]
    omega

end

/-- The content of `rx_buf` plays no part in the count. -/
theorem Engine.attemptsLeft_rxBuf (e : Engine) (x : Frame) : ({ e with rxBuf := x } : Engine).attemptsLeft =
    e.attemptsLeft := rfl

/-- A poll in WaitingResponse leaves fewer attempts, or it found no frame before the timeout and changed `rx_buf` alone
(R115). -/
theorem processWaiting_attemptsLeft {now : U32} {s u : State} (hinv : s.engine.Inv)
    (hwait : s.engine.opstate = .waitingResponse) (h : processWaiting now s = some u) :
    u.engine.attemptsLeft < s.engine.attemptsLeft ∨
      (u.engine = { s.engine with rxBuf := u.engine.rxBuf } ∧ ¬s.FrameWaiting ∧ timedOut s.engine now = false) := by
  obtain ⟨x, hengine⟩ := readRxPayload_engine s
  obtain ⟨r, hways⟩ := processWaiting_ways h
  have hpolled : ∀ found, readRxPayload s = (found, r) → r.engine = { s.engine with rxBuf := x } :=
    fun _ hread => by rw [← hengine, hread]
  obtain ⟨hread, hdispatch⟩ | ⟨hread, hearly, rfl⟩ | ⟨hread, -, rfl⟩ := hways
  · have hr := hpolled _ hread
    have hlt := dispatchResponse_attemptsLeft_lt (hr ▸ hinv.rxBuf x) (by rw [hr]; exact hwait) hdispatch
    rw [hr, Engine.attemptsLeft_rxBuf] at hlt
    exact .inl hlt
  · refine .inr ⟨by rw [hpolled _ hread], fun hframe => ?_, hearly⟩
    obtain ⟨hfound, -⟩ := readRxPayload_frame hframe
    simp [hread] at hfound
  · have hr := hpolled _ hread
    have hlt := retryOrFail_attemptsLeft_lt (s := r) (hr ▸ hinv.rxBuf x) (by rw [hr]; exact hwait)
    rw [hr, Engine.attemptsLeft_rxBuf] at hlt
    exact .inl hlt

/-! ### The bus events of a command (R170) -/

/-- The bus events a command leading from `s` to `t` appends: none where it was turned away, and such that `P` holds
elsewhere. -/
def BusWork (s t : State) (P : List BusEvent → Prop) : Prop :=
  ∃ l, busTrace t.history = busTrace s.history ++ l ∧
    ((∃ r, t.outcome = .refused r) ∨ t.outcome = .busy → l = []) ∧
    ((∀ r, t.outcome ≠ .refused r) → t.outcome ≠ .busy → P l)

theorem BusWork.of_refuse {s t : State} {P : List BusEvent → Prop} {r : RefuseReason} (h : refuse r s = .next t) :
    BusWork s t P := by
  cases h
  exact ⟨[], by simp, fun _ => rfl, fun hnot => absurd rfl (hnot r)⟩

theorem BusWork.of_notReady {i : Instr} {s t : State} {P : List BusEvent → Prop} (h : exec i s = .next t)
    (hhc : i.isHostCommand = true) (hinit : i ≠ .init) (hlink : s.engine.link ≠ .ready) : BusWork s t P :=
  .of_refuse (exec_notReady hhc hinit hlink ▸ h)

theorem BusWork.of_busy {s : State} {P : List BusEvent → Prop} : BusWork s { s with outcome := .busy } P :=
  ⟨[], by simp, fun _ => rfl, fun _ hnot => absurd rfl hnot⟩

theorem BusWork.of_ok {s t : State} {P : List BusEvent → Prop} {response : List Byte} {l : List BusEvent}
    (hout : t.outcome = .ok response) (hbus : busTrace t.history = busTrace s.history ++ l) (hl : P l) :
    BusWork s t P :=
  ⟨l, hbus, by simp [hout], fun _ _ => hl⟩

/-- The bring-up sequence is four transactions; the cause of a failed one is none (R81, R128). -/
theorem init_busWork {s t : State} (h : exec .init s = .next t) : BusWork s t fun l => l.length = 4 := by
  by_cases hfault : s.engine.link = .fault
  · exact .of_refuse (exec_init_faulted hfault ▸ h)
  by_cases hbusy : s.engine.link = .ready ∧ s.engine.opstate ≠ .idle
  · exact .of_refuse (exec_init_duringOperation hbusy.1 hbusy.2 ▸ h)
  obtain ⟨-, -, -, -, -, -, hbus, -⟩ := configureRadio_spec s
  cases hok : (bringUp s).1 with
  | true =>
    rw [exec_init_succeeds hfault hbusy hok] at h
    cases h
    exact .of_ok rfl hbus rfl
  | false =>
    rw [exec_init_fails hfault hbusy hok] at h
    cases h
    exact ⟨_, by simpa [setupFault, bringUp] using hbus, by simp, fun _ _ => rfl⟩

/-- An accepted start programs the filter and sends a frame: two transactions and six (R107, R108). -/
theorem AddressedSend.busWork {nid : U32} {f : Frame} {s t : State} {e : Engine} (h : AddressedSend nid f s e t) :
    BusWork s { t with outcome := .ok [] } fun l => l.length = 8 :=
  .of_ok rfl (h.bus.trans (List.append_assoc _ _ _)) rfl

theorem startPairing_busWork {s t : State} (h : exec .startPairing s = .next t) :
    BusWork s t fun l => l.length = 8 := by
  by_cases hlink : s.engine.link = .ready
  · by_cases hidle : s.engine.opstate = .idle
    · rw [exec_startPairing_idle hlink hidle] at h
      injection h with h
      exact h ▸ (addressedSend _ _ s _ (drawOwnId_draws_gaps s)).busWork
    · rw [(busyStartChangesNothing s hlink hidle).1] at h
      cases h
      exact .of_busy
  · exact .of_notReady h rfl nofun hlink

theorem startSetSpeed_busWork {pr : PairingRecord} {speed timer : Byte} {s t : State}
    (h : exec (.startSetSpeed pr speed timer) s = .next t) : BusWork s t fun l => l.length = 8 := by
  by_cases hlink : s.engine.link = .ready
  · by_cases hidle : s.engine.opstate = .idle
    · rw [exec_startSetSpeed_idle pr speed timer hlink hidle] at h
      injection h with h
      exact h ▸ (addressedSend _ _ s _ rfl).busWork
    · rw [(busyStartChangesNothing s hlink hidle).2] at h
      cases h
      exact .of_busy
  · exact .of_notReady h rfl nofun hlink

theorem resetOperationState_busWork {s t : State} (h : exec .resetOperationState s = .next t) :
    BusWork s t fun l => l.length = 2 := by
  by_cases hlink : s.engine.link = .ready
  · rw [exec_resetOperationState_ready hlink] at h
    cases h
    exact .of_ok rfl (setModeIdle_busTrace _) rfl
  · exact .of_notReady h rfl nofun hlink

/-- An accessor or a reserved opcode issues no transaction, whatever it answers (R124–R126, R142). -/
theorem accessor_busWork {i : Instr} {s t : State} (h : exec i s = .next t)
    (hi : i = .isOperationComplete ∨ i = .lastOperationSuccessful ∨ i = .getPairingResult ∨ ∃ op, i = .reservedHc op) :
    BusWork s t fun l => l = [] := by
  obtain ⟨-, -, hhist⟩ := accessor_engine h hi
  exact ⟨[], by simp [hhist], fun _ => rfl, fun _ _ => rfl⟩

/-! ### The bus events of a poll in WaitingResponse (R170) -/

/-- The six paths of `PROCESS` in WaitingResponse with the number `len` of bus events of each, `n` of them the status
read: nothing happens, a retry, the budget used up, a frame that ends the operation, and the two phase changes. -/
def WaitingPath (s t : State) (shut : Bool) (n len : Nat) : Prop :=
  (t.engine = { s.engine with rxBuf := t.engine.rxBuf } ∧
    (∀ now rest, s.draws.clock = now :: rest →
      (now - s.engine.attemptStart).toNat < s.engine.timeoutMs.toNat) ∧
    causeTrace t.history = causeTrace s.history ∧ len = n) ∨
  (t.engine.opstate = .transmitting ∧ t.engine.op = s.engine.op ∧
    (∀ now rest, s.draws.clock = now :: rest →
      s.engine.timeoutMs.toNat ≤ (now - s.engine.attemptStart).toNat) ∧
    causeTrace t.history = causeTrace s.history ++ [.noResponse] ∧ len = n + 6) ∨
  (t.engine.opstate = .operationComplete ∧ t.engine.success = false ∧
    (∀ now rest, s.draws.clock = now :: rest →
      s.engine.timeoutMs.toNat ≤ (now - s.engine.attemptStart).toNat) ∧
    causeTrace t.history = causeTrace s.history ++ [.retriesExhausted] ∧ len = n + 2) ∨
  (shut = false ∧ t.engine.opstate = .operationComplete ∧
    (causeTrace t.history = causeTrace s.history ∨
      causeTrace t.history = causeTrace s.history ++ [.protocolMismatch]) ∧
    len = 3 + (if s.params.idleOnResponseComplete then 2 else 0)) ∨
  (shut = false ∧ len = 11 ∧
    ∃ ownId pr, s.engine.op = .pairingDiscover ownId ∧ t.engine.op = .pairingJoin ownId pr) ∨
  (shut = false ∧ len = 9 ∧
    ∃ ownId pr, s.engine.op = .pairingJoin ownId pr ∧ t.engine.op = .pairingAck ownId pr)

/-- `shut` says whether the poll stops at the gate (R87): never without `P_RX_GATE`, else where `line_ready` is
scripted to read 0. -/
structure GateReading (s : State) (shut : Bool) : Prop where
  ungated : s.params.rxGate = false → shut = false
  gated : s.params.rxGate = true → ∀ r rest, s.draws.ready = r :: rest → shut = !r

/-- What the dispatch of a frame issues behind the poll (R118–R123). -/
theorem dispatchResponse_work {s u : State} (h : dispatchResponse s = some u) :
    ∃ l, busTrace u.history = busTrace s.history ++ l ∧
      ((u.engine.opstate = .operationComplete ∧
          l.length = if s.params.idleOnResponseComplete then 2 else 0) ∨
        (l.length = 8 ∧ ∃ own pr, s.engine.op = .pairingDiscover own ∧ u.engine.op = .pairingJoin own pr) ∨
        (l.length = 6 ∧ ∃ own pr, s.engine.op = .pairingJoin own pr ∧ u.engine.op = .pairingAck own pr)) := by
  obtain ⟨-, rfl⟩ | ⟨_, -, -, rfl⟩ | ⟨own, pr, hop, -, rfl⟩ | ⟨own, pr, hop, rfl⟩ := dispatchResponse_cases h
  · exact ⟨_, complete_busTrace _ _ _, .inl ⟨by simp, by split <;> rfl⟩⟩
  · exact ⟨_, (complete_busTrace _ _ _).trans (by rw [recordCause_busTrace]), .inl ⟨by simp, by split <;> rfl⟩⟩
  · have hsent := enterJoin_addressedSend own pr s
    exact ⟨_, hsent.bus.trans (List.append_assoc _ _ _), .inr (.inl ⟨rfl, own, pr, hop, by rw [hsent.engine]⟩)⟩
  · exact ⟨_, resend_busTrace _, .inr (.inr ⟨rfl, own, pr, hop, by simp [enterAck_eq]⟩)⟩

/-- What a timeout issues behind the poll: the frame again, or the idling of the radio (R117). -/
theorem retryOrFail_work (s : State) :
    ∃ l, busTrace (retryOrFail s).history = busTrace s.history ++ l ∧
      (((retryOrFail s).engine.opstate = .transmitting ∧ (retryOrFail s).engine.op = s.engine.op ∧
          causeTrace (retryOrFail s).history = causeTrace s.history ++ [.noResponse] ∧ l.length = 6) ∨
        ((retryOrFail s).engine.opstate = .operationComplete ∧ (retryOrFail s).engine.success = false ∧
          causeTrace (retryOrFail s).history = causeTrace s.history ++ [.retriesExhausted] ∧ l.length = 2)) := by
  by_cases hleft : (s.engine.attempts + 1).toNat < s.engine.maxRetries.toNat
  · rw [retryOrFail_of_budgetLeft hleft]
    exact ⟨_, (resend_busTrace _).trans (by rw [recordCause_busTrace]), .inl ⟨by simp, by simp, by simp, rfl⟩⟩
  · rw [retryOrFail_of_exhausted (Nat.not_lt.1 hleft)]
    exact ⟨_, (complete_busTrace _ _ _).trans (by rw [recordCause_busTrace]), .inr ⟨by simp, by simp, by simp, rfl⟩⟩

/-- Each path is the poll, with what the dispatch or the timeout issues behind it. -/
theorem process_waitingWork {s t : State} (hlink : s.engine.link = .ready)
    (hwait : s.engine.opstate = .waitingResponse) (h : exec .process s = .next t) :
    ∃ shut l, GateReading s shut ∧ t.outcome = .ok [] ∧ busTrace t.history = busTrace s.history ++ l ∧
      WaitingPath s t shut (if shut then 0 else 1) l.length := by
  obtain ⟨u, hu, rfl⟩ := (exec_process_waiting_iff hlink hwait).1 h
  obtain ⟨shut, poll, hungated, hgated, hbus, hfound, hnone⟩ := readRxPayload_work (drawClock s).2
  obtain ⟨x, hengine⟩ := readRxPayload_engine (drawClock s).2
  obtain ⟨-, -, -, -, -, hcause⟩ := readRxPayload_rest (drawClock s).2
  have hparams := (readRxPayload_kept (drawClock s).2).params
  obtain ⟨r, hways⟩ := processWaiting_ways hu
  generalize readRxPayload (drawClock s).2 = p at hbus hfound hnone hengine hcause hparams hways
  simp only [drawClock_history, drawClock_engine, drawClock_params] at hbus hengine hcause hparams
  have hgate : GateReading s shut := ⟨hungated, hgated⟩
  obtain ⟨rfl, hdispatch⟩ | ⟨rfl, hearly, rfl⟩ | ⟨rfl, hlate, rfl⟩ := hways
  · obtain ⟨hopen, hthree⟩ := hfound rfl
    obtain ⟨l, hl, hpath⟩ := dispatchResponse_work hdispatch
    have hrecorded := dispatchResponse_cause hdispatch
    dsimp only at hbus hengine hcause hparams
    simp only [hbus, hengine, hcause, hparams, List.append_assoc] at hl hpath hrecorded
    refine ⟨shut, poll ++ l, hgate, rfl, hl, ?_⟩
    rw [List.length_append, hthree]
    obtain ⟨hdone, hlen⟩ | ⟨hlen, hjoins⟩ | ⟨hlen, hacks⟩ := hpath
    · exact .inr (.inr (.inr (.inl ⟨hopen, hdone, hrecorded, by rw [hlen]⟩)))
    · exact .inr (.inr (.inr (.inr (.inl ⟨hopen, by rw [hlen], hjoins⟩))))
    · exact .inr (.inr (.inr (.inr (.inr ⟨hopen, by rw [hlen], hacks⟩))))
  · dsimp only at hengine
    exact ⟨shut, poll, hgate, rfl, hbus, .inl ⟨by simp [hengine],
      fun _ _ hclock => (timedOut_drawClock_eq_false_iff hclock).1 hearly, hcause, hnone rfl⟩⟩
  · obtain ⟨l, hl, hpath⟩ := retryOrFail_work r
    have htimeout := fun now rest (hclock : s.draws.clock = now :: rest) => (timedOut_drawClock_iff hclock).1 hlate
    dsimp only at hbus hengine hcause
    simp only [hbus, hengine, hcause, List.append_assoc] at hl hpath
    refine ⟨shut, poll ++ l, hgate, rfl, hl, ?_⟩
    rw [List.length_append, hnone rfl]
    obtain ⟨hsent, hop, hrecorded, hlen⟩ | ⟨hdone, hfailed, hrecorded, hlen⟩ := hpath
    · exact .inr (.inl ⟨hsent, hop, htimeout, hrecorded, by rw [hlen]⟩)
    · exact .inr (.inr (.inl ⟨hdone, hfailed, htimeout, hrecorded, by rw [hlen]⟩))

/-- What `PROCESS` issues in each opstate (R112). -/
structure ProcessWork (s t : State) (l : List BusEvent) : Prop where
  resting : s.engine.opstate = .idle ∨ s.engine.opstate = .operationComplete → l = []
  transmitting : s.engine.opstate = .transmitting → l.length = 2
  waiting : s.engine.opstate = .waitingResponse →
    ∃ shut, GateReading s shut ∧ WaitingPath s t shut (if shut then 0 else 1) l.length

theorem process_busWork {s t : State} (h : exec .process s = .next t) : BusWork s t (ProcessWork s t) := by
  by_cases hlink : s.engine.link = .ready
  · cases hst : s.engine.opstate with
    | idle =>
      rw [exec_process_resting hlink (.inl hst)] at h
      cases h
      exact .of_ok (l := []) rfl (by simp) ⟨fun _ => rfl, by simp [hst], by simp [hst]⟩
    | operationComplete =>
      rw [exec_process_resting hlink (.inr hst)] at h
      cases h
      exact .of_ok (l := []) rfl (by simp) ⟨fun _ => rfl, by simp [hst], by simp [hst]⟩
    | transmitting =>
      rw [exec_process_transmitting hlink hst] at h
      cases h
      exact .of_ok rfl (setModeReceive_busTrace _) ⟨by simp [hst], fun _ => rfl, by simp [hst]⟩
    | waitingResponse =>
      obtain ⟨shut, l, hgate, hout, hbus, hpath⟩ := process_waitingWork hlink hst h
      exact .of_ok hout hbus ⟨by simp [hst], by simp [hst], fun _ => ⟨shut, hgate, hpath⟩⟩
  · exact .of_notReady h rfl nofun hlink

/-! ### The obligations -/

/-- Settles O53: command by command, the checks turn it away or its transactions are those of its rule. -/
theorem workPerHostCommand : Obligations.WorkPerHostCommand := by
  intro s t i hhc h
  cases i with
  | init => exact init_busWork h
  | startPairing => exact startPairing_busWork h
  | startSetSpeed => exact startSetSpeed_busWork h
  | process =>
    obtain ⟨l, hbus, haway, hcount⟩ := process_busWork h
    refine ⟨l, hbus, haway, fun hnotRefused hnotBusy => ?_⟩
    obtain ⟨hresting, htransmitting, hwaiting⟩ := hcount hnotRefused hnotBusy
    dsimp only
    split
    · next hst => exact hresting (.inl hst)
    · next hst => exact hresting (.inr hst)
    · next hst => exact htransmitting hst
    · next hst =>
      obtain ⟨shut, ⟨hungated, hgated⟩, hpath⟩ := hwaiting hst
      exact ⟨shut, _, hungated, hgated, rfl, hpath⟩
  | resetOperationState => exact resetOperationState_busWork h
  | isOperationComplete | lastOperationSuccessful | getPairingResult | reservedHc =>
    exact accessor_busWork h (by simp)
  | _ => cases hhc

/-- Settles O58: the wait starts with the attempts of the frame sent; a poll that does more than wait on lowers the
count, and the invariant of the next state makes it 0 only where no operation is in flight. -/
theorem everyWaitUsesUpAnAttempt : Obligations.EveryWaitUsesUpAnAttempt := by
  intro s t hinv h
  have hready : s.engine.opstate ≠ .idle → s.engine.link = .ready := fun hne =>
    hinv.link_ready (hinv.engineInv.op_ne_none hne)
  refine ⟨fun htrans => ?_, fun hwait => ?_, (process_engineInv hinv.engineInv h).attemptsLeft_eq_zero_iff⟩
  · rw [exec_process_transmitting (hready (by simp [htrans])) htrans] at h
    cases h
    simp [processTransmitting, Engine.attemptsLeft, htrans]
  · obtain ⟨u, hu, rfl⟩ := (exec_process_waiting_iff (hready (by simp [hwait])) hwait).1 h
    refine (processWaiting_attemptsLeft (s := (drawClock s).2) hinv.engineInv hwait hu).imp_right
      fun ⟨hengine, hframe, hearly⟩ => ⟨hengine, fun hwaiting => hframe hwaiting.drawClock, fun now rest hclock =>
        (timedOut_drawClock_eq_false_iff hclock).1 hearly⟩

/-- Settles O59: `arm` sets the count to 0 and the budget to `N_CMD`, and a discovery has the two later phases before
it. -/
theorem operationsStartWithTheirWholeBudget : Obligations.OperationsStartWithTheirWholeBudget := by
  intro s hlink hidle
  refine ⟨⟨_, exec_startPairing_idle hlink hidle, ?_⟩,
    fun pr speed timer => ⟨_, exec_startSetSpeed_idle pr speed timer hlink hidle, ?_⟩⟩
  · simp [send_engine, armedEngine, Engine.attemptsLeft]
  · simp [send_engine, armedEngine, Engine.attemptsLeft]

/-- Settles O46: the registers of the power-on state are written out in `Engine.reset` and `State.powerOn`. -/
theorem resetRegisters : Obligations.ResetRegisters := ⟨rfl, rfl, rfl, rfl, rfl, rfl, rfl, rfl, rfl⟩

end Sys2Proof.Machine
end
